-- ==== Sys2Proof/Word.lean ====
section
/-! DEFINITION. The word types of the block: bytes, the register widths of 10_state.md R20 and R21, and the 40-bit command and response words of 30_encoding.md R80 and R82. -/

namespace Sys2Proof

/-- One byte of the sensor register space, or an 8-bit register (20_memory.md R50, 10_state.md R21). -/
abbrev Byte := BitVec 8

/-- A sensor register address (20_memory.md R50; 00_scope.md R9, `SADDR_BITS` = 8). -/
abbrev Addr := BitVec 8

/-- A 16-bit coefficient register, `u16` or `s16` (10_state.md R21). -/
abbrev Half := BitVec 16

/-- A 32-bit pipeline register, operand field or response value (10_state.md R20, 30_encoding.md R80, R82). -/
abbrev Word := BitVec 32

/-- A command word `cmd[39:0]` (30_encoding.md R80; 00_scope.md R9, `CMD_BITS` = 40). -/
abbrev Command := BitVec 40

/-- A response word `rsp[39:0]` (30_encoding.md R82; 00_scope.md R9, `RSP_BITS` = 40). -/
abbrev Response := BitVec 40

end Sys2Proof
end

