-- ==== Sys2Proof/Syntax.lean ====
section
/-! DEFINITION. The five commands as syntax (30_encoding.md R83), the register names that 10_state.md R21 and R31 give, and the pseudo-instruction `COMPALL` (30_encoding.md R91). -/

namespace Sys2Proof

/-- The 18 calibration coefficients, in the order of 10_state.md R21. -/
inductive CoefName
  | t1 | t2 | t3
  | p1 | p2 | p3 | p4 | p5 | p6 | p7 | p8 | p9
  | h1 | h2 | h3 | h4 | h5 | h6
  deriving DecidableEq, Repr

/-- The registers `RDREG` can name (10_state.md R31). -/
inductive Reg
  /-- `C[i]`, a coefficient register. -/
  | coef (c : CoefName)
  /-- `T_FINE`. -/
  | tFine
  /-- `T_OUT`. -/
  | tOut
  /-- `P_OUT`. -/
  | pOut
  /-- `H_OUT`. -/
  | hOut
  /-- `STATUS`, the view of the two flags (10_state.md R30). -/
  | status
  deriving DecidableEq, Repr

/-- The commands, one constructor per row of spec/opcode_table.json (30_encoding.md R81, R83). -/
inductive Instr
  /-- `LDCAL`: load and unpack all 18 coefficients (format N; 40_calibration_unpack.md R119). -/
  | ldcal
  /-- `COMPT imm`: temperature compensation (format I; 41_compensate_temperature.md R140). -/
  | compt (imm : Word)
  /-- `COMPP imm`: pressure compensation (format I; 42_compensate_pressure.md R150). -/
  | compp (imm : Word)
  /-- `COMPH imm`: humidity compensation (format I; 43_compensate_humidity.md R160). -/
  | comph (imm : Word)
  /-- `RDREG idx`: read one register (format R; 44_register_read.md R170). -/
  | rdreg (idx : Byte)
  deriving DecidableEq, Repr

/-- The pseudo-instruction `COMPALL t, p, h` (30_encoding.md R91): temperature first, then pressure, then humidity. -/
def Instr.compall (t p h : Word) : List Instr := [.compt t, .compp p, .comph h]

end Sys2Proof
end

