-- ==== Sys2Proof/WellFormed.lean ====
section
/-! DEFINITION. Which terms of `Instr` stand for a legal command: the one check is the register index of `RDREG` (30_encoding.md R86, R87). -/

namespace Sys2Proof

/-- The last index that names a register (10_state.md R31: 0x17 .. 0xFF are reserved). -/
def lastRegIndex : Byte := 0x16

/-- A command is well formed when every operand is one its encoding admits. Format I admits every 32-bit operand
(30_encoding.md R84); format R admits the indices of 10_state.md R31. -/
def Instr.wellFormed : Instr → Bool
  | .ldcal => true
  | .compt _ => true
  | .compp _ => true
  | .comph _ => true
  | .rdreg idx => decide (idx ≤ lastRegIndex)

end Sys2Proof
end

