-- ==== Sys2Proof/Decode.lean ====
section
/-! DEFINITION. Decoding a 40-bit command word (30_encoding.md R80, R81, R83 to R87), the encoder, and the opcode table. -/

namespace Sys2Proof

/-- Why a word selects no operation: the illegal encodings of 30_encoding.md R87, each by name. All of them raise
`IllegalCommand`. -/
inductive DecodeError
  /-- `op` is 0x00 or 0x06 .. 0xFF. -/
  | reservedOpcode (op : Byte)
  /-- `LDCAL` with `arg != 0`. -/
  | ldcalOperand (arg : Word)
  /-- `RDREG` with `arg[31:8] != 0`. -/
  | rdregMustBeZero (arg : Word)
  /-- `RDREG` with `arg[7:0]` above 0x16. -/
  | rdregReservedIndex (idx : Byte)
  deriving DecidableEq, Repr

/-- `op = cmd[39:32]` (30_encoding.md R80). -/
def Command.op (w : Command) : Byte := w.extractLsb' 32 8

/-- `arg = cmd[31:0]` (30_encoding.md R80). -/
def Command.arg (w : Command) : Word := w.extractLsb' 0 32

/-- The decoder, in the order of checks of 30_encoding.md R86. It is total: every word gives one command or one named
reason why it is illegal. -/
def decode (w : Command) : Except DecodeError Instr :=
  if w.op = 0x01 then
    if w.arg ≠ 0 then .error (.ldcalOperand w.arg) else .ok .ldcal
  else if w.op = 0x02 then .ok (.compt w.arg)
  else if w.op = 0x03 then .ok (.compp w.arg)
  else if w.op = 0x04 then .ok (.comph w.arg)
  else if w.op = 0x05 then
    if w.arg.extractLsb' 8 24 ≠ 0 then .error (.rdregMustBeZero w.arg)
    else if lastRegIndex < w.arg.extractLsb' 0 8 then .error (.rdregReservedIndex (w.arg.extractLsb' 0 8))
    else .ok (.rdreg (w.arg.extractLsb' 0 8))
  else .error (.reservedOpcode w.op)

/-- The opcode of each command (30_encoding.md R83). -/
def Instr.opcode : Instr → Byte
  | .ldcal => 0x01
  | .compt _ => 0x02
  | .compp _ => 0x03
  | .comph _ => 0x04
  | .rdreg _ => 0x05

/-- The mnemonic of each command (30_encoding.md R83). -/
def Instr.mnemonic : Instr → String
  | .ldcal => "LDCAL"
  | .compt _ => "COMPT"
  | .compp _ => "COMPP"
  | .comph _ => "COMPH"
  | .rdreg _ => "RDREG"

/-- The operand field of each command: formats N, I and R (30_encoding.md R81). -/
def Instr.operandField : Instr → Word
  | .ldcal => 0
  | .compt imm => imm
  | .compp imm => imm
  | .comph imm => imm
  | .rdreg idx => (0 : BitVec 24) ++ idx

/-- The encoder: `op ++ arg` (30_encoding.md R80, R81, R89). -/
def encode (i : Instr) : Command := i.opcode ++ i.operandField

/-- One row of the opcode table: a word matches when it agrees with `pattern` under `mask`. -/
structure OpcodeRow where
  mnemonic : String
  mask : Command
  pattern : Command
  deriving DecidableEq, Repr

/-- Whether a word matches a row. -/
def OpcodeRow.covers (r : OpcodeRow) (w : Command) : Bool := w &&& r.mask == r.pattern

/-- spec/opcode_table.json: the must-be-zero fields are folded into the masks (30_encoding.md R83). -/
def opcodeTable : List OpcodeRow :=
  [ { mnemonic := "LDCAL", mask := 0xFFFFFFFFFF, pattern := 0x0100000000 },
    { mnemonic := "COMPT", mask := 0xFF00000000, pattern := 0x0200000000 },
    { mnemonic := "COMPP", mask := 0xFF00000000, pattern := 0x0300000000 },
    { mnemonic := "COMPH", mask := 0xFF00000000, pattern := 0x0400000000 },
    { mnemonic := "RDREG", mask := 0xFFFFFFFF00, pattern := 0x0500000000 } ]

/-- The 40-bit command word whose table bits are the low `nbits` bits of `w`; the bits above them are 0. The whole
command is one word, and bit 0 is its least significant bit (30_encoding.md R80, 00_scope.md R10). -/
def tableCommand (nbits w : Nat) : Command := BitVec.ofNat 40 (w % 2 ^ nbits)

/-- The instruction the decoder reads from the bits `w` of a table row. -/
def decodeTableWord (nbits w : Nat) : Option Instr :=
  match decode (tableCommand nbits w) with
  | .ok i => some i
  | .error _ => none

end Sys2Proof
end

