-- ==== Sys2Proof/Machine/Arith.lean ====
section
/-! DEFINITION. The arithmetic primitives of 00_scope.md R12: values are mathematical integers, and a value enters a fixed width only through one of these (00_scope.md R11). -/

namespace Sys2Proof.Machine

/-- `wrapN(x)`: the value of `sN` congruent to `x` modulo `2^N` (00_scope.md R12). -/
def wrap (n : Nat) (x : Int) : Int := Int.bmod x (2 ^ n)

/-- `zext_N(v)`: `v mod 2^N`, read as unsigned (00_scope.md R12). -/
def zext (n : Nat) (v : Int) : Int := v % 2 ^ n

/-- `sext_N(v)`: the low `N` bits of `v` read as `sN` (00_scope.md R12). -/
def sext (n : Nat) (v : Int) : Int := if v % 2 ^ n < 2 ^ (n - 1) then v % 2 ^ n else v % 2 ^ n - 2 ^ n

/-- `asr(x, k)`: `floor(x / 2^k)` (00_scope.md R12; 92_eei_decisions.md D8). -/
def asr (x : Int) (k : Nat) : Int := x / 2 ^ k

/-- `shlN(x, k)` (00_scope.md R12). -/
def shl (n : Nat) (x : Int) (k : Nat) : Int := wrap n (x * 2 ^ k)

/-- `mulN(x, y)` (00_scope.md R12). -/
def mul (n : Nat) (x y : Int) : Int := wrap n (x * y)

/-- `addN(x, y)` (00_scope.md R12). -/
def add (n : Nat) (x y : Int) : Int := wrap n (x + y)

/-- `subN(x, y)` (00_scope.md R12). -/
def sub (n : Nat) (x y : Int) : Int := wrap n (x - y)

/-- `sdiv64(a, b)`: truncated toward zero, with `sdiv64(-2^63, -1) = -2^63` (00_scope.md R12; 92_eei_decisions.md D9).
The spec defines it for `b != 0` only; its one caller guards the divisor (42_compensate_pressure.md R151). -/
def sdiv64 (a b : Int) : Int := wrap 64 (Int.tdiv a b)

/-- `u32(x)`: the low 32 bits (00_scope.md R12; 92_eei_decisions.md D10). A signed result is stored by the same
low 32 bits, as its two's-complement pattern. -/
def u32 (x : Int) : Word := BitVec.ofInt 32 x

end Sys2Proof.Machine
end

