-- ==== Sys2Proof/Machine/State.lean ====
section
/-! DEFINITION. The state: the architectural tuple of 10_state.md R20 and the block's ports to the host and to the transport, all of it plain data; the reasons a step can stop; the state after reset. -/

namespace Sys2Proof.Machine

/-- The coefficient register file `C[0..17]`, each register a cell of its own type (10_state.md R21, R22): `T1`, `P1`
are `u16`, `H1`, `H3` are `u8`, `H6` is `s8`, the others are `s16`. -/
structure Coefs where
  t1 : Half
  t2 : Half
  t3 : Half
  p1 : Half
  p2 : Half
  p3 : Half
  p4 : Half
  p5 : Half
  p6 : Half
  p7 : Half
  p8 : Half
  p9 : Half
  h1 : Byte
  h2 : Half
  h3 : Byte
  h4 : Half
  h5 : Half
  h6 : Byte
  deriving DecidableEq, Repr

/-- The contents of the sensor register space as one transaction sees them (20_memory.md R50): address and byte pairs,
addresses strictly rising and below 256, no entry equal to what an unlisted address reads as (`Memory.wf`). -/
abbrev Memory := List Host.Cell

/-- The environment's answer to one `MemRead` transaction (00_scope.md R14; 20_memory.md R53, R55). -/
inductive TransportAnswer
  /-- The transaction succeeds; the sensor register space holds `m` while it is read. -/
  | image (m : Memory)
  /-- The transaction fails as a whole. -/
  | failed
  /-- The transaction neither succeeds nor fails (93_implementation_defined.md U10, 70_reset_and_hazards.md R220). -/
  | never
  deriving DecidableEq, Repr

/-- A transaction the block issues on the transport port (00_scope.md R14). -/
inductive Transaction
  /-- `MemRead(addr, n)`. -/
  | memRead (addr : Addr) (n : Nat)
  /-- `MemWrite(addr, 1, v)`, the document's `writeRegister`; no command uses it (20_memory.md R61). -/
  | memWrite (addr : Addr) (v : Byte)
  deriving DecidableEq, Repr

/-- What the host can present to the block (30_encoding.md R80; 70_reset_and_hazards.md R210, R216). -/
inductive HostInput
  /-- One command word. -/
  | command (w : Command)
  /-- Reset, which occurs between commands (70_reset_and_hazards.md R210). -/
  | reset
  /-- A second command presented while one is in progress, which has no meaning (70_reset_and_hazards.md R216). -/
  | overlapping (first second : Command)
  deriving DecidableEq, Repr

/-- The faults of the spec (60_exceptions.md R180). Each ends a COMMAND and is answered to the host in the response
word; the block goes on, so none of them is a stop of the machine (`Fault`). -/
inductive CommandFault
  | uninitializedError
  | transportError
  | illegalCommand
  deriving DecidableEq, Repr

/-- The status field of a response word (30_encoding.md R82). -/
inductive Status
  | ok
  | uninit
  | transport
  | illegal
  deriving DecidableEq, Repr

/-- Why the machine stops. -/
inductive Fault
  /-- Raised by `LDCAL` when a transaction it issues is never answered: it "has no step until the transaction succeeds or
  fails" (93_implementation_defined.md U10). Safe: the hardware does not go on either (log entry 4). -/
  | transactionNeverAnswered
  deriving DecidableEq, Repr

/-- Why a step is refused. -/
inductive Refusal
  /-- Answered by an arm of `exec` that has no meaning yet. Safe: nothing can be proved of what follows. No arm of this
  model answers it. -/
  | notModelled (mnemonic : String)
  /-- Answered by `step` when the host presents a command while another is in progress: "the model gives overlapping
  commands no meaning" (93_implementation_defined.md U6). Safe (log entry 9). -/
  | overlappingCommands
  deriving DecidableEq, Repr

/-- The state of the block (10_state.md R20) and of its ports. -/
structure State where
  /-- `C[0..17]` (10_state.md R21). -/
  coef : Coefs
  /-- `T_FINE`, `s32` (10_state.md R24). -/
  tFine : Word
  /-- `T_OUT`, `s32` (10_state.md R26). -/
  tOut : Word
  /-- `P_OUT`, `u32` (10_state.md R26). -/
  pOut : Word
  /-- `H_OUT`, `u32` (10_state.md R26). -/
  hOut : Word
  /-- `CAL_VALID` (10_state.md R27). -/
  calValid : Bool
  /-- `TF_SET` (10_state.md R28). -/
  tfSet : Bool
  /-- Port: what the host presents next, in order (log entry 2). -/
  inputs : List HostInput
  /-- Port: the environment's answers to the coming transactions, in order (log entry 3). -/
  transport : List TransportAnswer
  /-- Port: the transactions issued so far, newest first (log entry 7). -/
  bus : List Transaction
  /-- Port: the response words returned so far, newest first (log entry 7). -/
  responses : List Response
  /-- The MODEL's own: how many transactions were answered by a free value of `Config` (log entry 3). -/
  freeIdx : Nat
  deriving DecidableEq, Repr

/-- A coefficient file of zeros (10_state.md R33). -/
def Coefs.zero : Coefs :=
  { t1 := 0, t2 := 0, t3 := 0
    p1 := 0, p2 := 0, p3 := 0, p4 := 0, p5 := 0, p6 := 0, p7 := 0, p8 := 0, p9 := 0
    h1 := 0, h2 := 0, h3 := 0, h4 := 0, h5 := 0, h6 := 0 }

/-- The state after reset: every register and flag 0 (10_state.md R33), nothing presented and nothing issued. -/
def State.reset : State :=
  { coef := Coefs.zero
    tFine := 0, tOut := 0, pOut := 0, hOut := 0
    calValid := false, tfSet := false
    inputs := [], transport := [], bus := [], responses := [], freeIdx := 0 }

/-- What one command or one step answers. -/
abbrev Result := Host.Outcome State Fault Refusal

end Sys2Proof.Machine
end

