-- ==== Sys2Proof/Machine/Operands.lean ====
section
/-! DEFINITION. The operand forms (30_encoding.md R84, R85) and what reading a register gives (00_scope.md R13, 10_state.md R21, R31). -/

namespace Sys2Proof.Machine

/-- Format I: `imm = sext_32(arg)`, not scaled, shifted or range-checked (30_encoding.md R84; 00_scope.md R8). -/
def immOperand (imm : Word) : Int := imm.toInt

/-- The registers in the order of their `RDREG` index, 0x00 to 0x16 (10_state.md R31). -/
def registerTable : List Reg :=
  [ .coef .t1, .coef .t2, .coef .t3,
    .coef .p1, .coef .p2, .coef .p3, .coef .p4, .coef .p5, .coef .p6, .coef .p7, .coef .p8, .coef .p9,
    .coef .h1, .coef .h2, .coef .h3, .coef .h4, .coef .h5, .coef .h6,
    .tFine, .tOut, .pOut, .hOut, .status ]

/-- Format R: the register an index names; the indices 0x17 .. 0xFF name none (30_encoding.md R85; 10_state.md R31). -/
def regOfIndex (idx : Byte) : Option Reg := registerTable[idx.toNat]?

/-- A coefficient as an integer of its register's own signedness (00_scope.md R13; 10_state.md R21). -/
def Coefs.value (c : Coefs) : CoefName → Int
  | .t1 => c.t1.toNat
  | .t2 => c.t2.toInt
  | .t3 => c.t3.toInt
  | .p1 => c.p1.toNat
  | .p2 => c.p2.toInt
  | .p3 => c.p3.toInt
  | .p4 => c.p4.toInt
  | .p5 => c.p5.toInt
  | .p6 => c.p6.toInt
  | .p7 => c.p7.toInt
  | .p8 => c.p8.toInt
  | .p9 => c.p9.toInt
  | .h1 => c.h1.toNat
  | .h2 => c.h2.toInt
  | .h3 => c.h3.toNat
  | .h4 => c.h4.toInt
  | .h5 => c.h5.toInt
  | .h6 => c.h6.toInt

/-- `T_FINE` as the signed integer it holds (10_state.md R24). -/
def State.fine (s : State) : Int := s.tFine.toInt

/-- A coefficient as `RDREG` returns it: an unsigned one zero-extended, a signed one as the two's-complement pattern of
its sign-extended value (10_state.md R31; 44_register_read.md R170). -/
def Coefs.word (c : Coefs) (n : CoefName) : Word := u32 (c.value n)

end Sys2Proof.Machine
end

