-- ==== Sys2Proof/Config.lean ====
section
/-! DEFINITION. What is fixed for one machine (the named parameters of 00_scope.md R9) and the free values of the environment (20_memory.md R55), which have no body. -/

namespace Sys2Proof

/-- The two values `P3_ADDR` may take (40_calibration_unpack.md R118: "`P3_ADDR` takes no other value"). -/
inductive P3Source
  /-- 0x92, the vendor-documented address (the default). -/
  | vendor
  /-- 0x90, the source's copy-paste bug: `P3` receives the bytes of `P2`. -/
  | copyPasteBug
  deriving DecidableEq, Repr

/-- The named parameters of 00_scope.md R9. They are fixed for a machine and no state of it (10_state.md R32). -/
structure Params where
  /-- `H45_SIGN_EXTEND` (40_calibration_unpack.md R116). -/
  h45SignExtend : Bool
  /-- `P3_ADDR` (40_calibration_unpack.md R118). -/
  p3Source : P3Source
  deriving DecidableEq, Repr

/-- The defaults the spec gives (00_scope.md R9; log entry 6). -/
def Config.params : Params := { h45SignExtend := true, p3Source := .vendor }

/-- FREE VALUE (20_memory.md R55, 92_eei_decisions.md D26; log entry 3): whether the `k`-th transaction that the
answer queue does not decide succeeds (`TransportOutcome`). Nothing constrains it. -/
opaque Config.transportSucceeds : Nat → Bool

/-- FREE VALUE (20_memory.md R55, 92_eei_decisions.md D26; log entry 3): the byte the sensor returns for an address in
the `k`-th transaction that the answer queue does not decide (`Sensor`). Nothing constrains it, and two transactions
need not agree. -/
opaque Config.sensorByte : Nat → Addr → Byte

end Sys2Proof
end

