-- ==== Sys2Proof/Machine/Ops.lean ====
section
/-! DEFINITION. The shared operations: the sensor register space, the read primitive, the response word, raising a fault, and reset. -/

namespace Sys2Proof.Machine

/-! ### The sensor register space (20_memory.md R50) -/

/-- What an address that a memory does not list reads as. A convention of the representation only: every content of the
256 bytes has exactly one canonical list (log entry 5). -/
def unlistedByte : Byte := 0

/-- The byte a sparse memory holds at an address, given as a number. -/
def lookupByte : Memory → Nat → Byte
  | [], _ => unlistedByte
  | (k, v) :: rest, a => if k = a then v else lookupByte rest a

/-- The byte at an 8-bit address. Every such address exists (20_memory.md R50). -/
def readByte (m : Memory) (a : Addr) : Byte := lookupByte m a.toNat

/-- Insert a byte into a sorted memory, dropping the entry when it would equal what an unlisted address reads as. -/
def insertByte : Memory → Nat → Byte → Memory
  | [], a, v => if v = unlistedByte then [] else [(a, v)]
  | (k, w) :: rest, a, v =>
    if a < k then (if v = unlistedByte then (k, w) :: rest else (a, v) :: (k, w) :: rest)
    else if a = k then (if v = unlistedByte then rest else (a, v) :: rest)
    else (k, w) :: insertByte rest a v

/-- Set one byte: how the environment's images are built. No command writes this space (20_memory.md R61). -/
def writeByte (m : Memory) (a : Addr) (v : Byte) : Memory := insertByte m a.toNat v

/-- Set consecutive bytes from an address upwards. -/
def writeBytes (m : Memory) (a : Addr) : List Byte → Memory
  | [] => m
  | v :: vs => writeBytes (writeByte m a v) (a + 1) vs

/-- The canonical form from a lower bound on: addresses strictly rising and below 256, no entry an unlisted address would
read as. -/
def Memory.wfFrom : Nat → Memory → Bool
  | _, [] => true
  | lo, (k, v) :: rest => decide (lo ≤ k) && decide (k < 256) && decide (v ≠ unlistedByte) && Memory.wfFrom (k + 1) rest

/-- The canonical form of a memory. -/
def Memory.wf (m : Memory) : Bool := Memory.wfFrom 0 m

/-- The canonical form of an answer: the image a successful one carries is canonical. -/
def TransportAnswer.wf : TransportAnswer → Bool
  | .image m => Memory.wf m
  | .failed => true
  | .never => true

/-- The `n` bytes at `addr, addr+1, …` of a memory (00_scope.md R14; 20_memory.md R53). -/
def burst (m : Memory) (addr : Addr) (n : Nat) : List Byte :=
  (List.range n).map fun i => readByte m (addr + BitVec.ofNat 8 i)

/-! ### The read primitive (00_scope.md R14; 20_memory.md R53 to R55) -/

/-- The free answer to the `k`-th undecided transaction: it succeeds or fails as `Config` says, with bytes `Config`
says (20_memory.md R55; log entry 3). -/
def freeAnswer (k : Nat) (addr : Addr) (n : Nat) : Option (List Byte) :=
  if Config.transportSucceeds k then
    some ((List.range n).map fun i => Config.sensorByte k (addr + BitVec.ofNat 8 i))
  else none

/-- What the environment answers to the next transaction: `n` bytes or failure (`none`). The head of the answer queue
decides, and a free value when the queue is empty. A transaction that is never answered gives no bytes; it does not
come here, since the command that would issue it stops first (`transportHangs`). -/
def nextAnswer (queue : List TransportAnswer) (k : Nat) (addr : Addr) (n : Nat) : Option (List Byte) :=
  match queue with
  | [] => freeAnswer k addr n
  | .image m :: _ => some (burst m addr n)
  | .failed :: _ => none
  | .never :: _ => none

/-- How many free answers were drawn after the next transaction. -/
def nextFreeIdx (queue : List TransportAnswer) (k : Nat) : Nat :=
  match queue with
  | [] => k + 1
  | _ :: _ => k

/-- `MemRead(addr, n)`: one transaction on the transport port, which consumes one answer of the environment. -/
def memRead (addr : Addr) (n : Nat) (s : State) : Option (List Byte) × State :=
  (nextAnswer s.transport s.freeIdx addr n,
    { s with
      bus := .memRead addr n :: s.bus
      transport := s.transport.tail
      freeIdx := nextFreeIdx s.transport s.freeIdx })

/-- Whether one of the next `n` transactions, issued in order and stopped at the first failure, is never answered
(93_implementation_defined.md U10). Free answers always come (70_reset_and_hazards.md R220; log entry 4). -/
def transportHangs : Nat → List TransportAnswer → Bool
  | 0, _ => false
  | _ + 1, [] => false
  | _ + 1, .never :: _ => true
  | _ + 1, .failed :: _ => false
  | n + 1, .image _ :: rest => transportHangs n rest

/-- `B[a]`: the byte that a burst starting at `base` returned for sensor address `a` (40_calibration_unpack.md). -/
def imageByte (base : Addr) (bytes : List Byte) (a : Addr) : Byte := bytes.getD (a - base).toNat 0

/-! ### The response word and faults (30_encoding.md R82; 60_exceptions.md R180, R186) -/

/-- The numeric status code (30_encoding.md R82). -/
def Status.code : Status → Byte
  | .ok => 0x00
  | .uninit => 0x01
  | .transport => 0x02
  | .illegal => 0x03

/-- The status code a fault answers (60_exceptions.md R180). -/
def CommandFault.status : CommandFault → Status
  | .uninitializedError => .uninit
  | .transportError => .transport
  | .illegalCommand => .illegal

/-- `rsp = status ++ value` (30_encoding.md R82). -/
def responseWord (st : Status) (value : Word) : Response := st.code ++ value

/-- Return one response word to the host. -/
def respond (st : Status) (value : Word) (s : State) : State :=
  { s with responses := responseWord st value :: s.responses }

/-- `return v`: the command ends with status `OK` and value `v` (00_scope.md R15). -/
def finish (value : Word) (s : State) : State := respond .ok value s

/-- `raise <Fault>`: the command ends, the response carries the fault's code and value 0, state written before stays
written, nothing is saved and control goes nowhere (00_scope.md R15; 60_exceptions.md R186). There is no return from a
fault: the next command is accepted normally (60_exceptions.md R187). -/
def raise (f : CommandFault) (s : State) : State := respond f.status 0 s

/-! ### Reset (70_reset_and_hazards.md R210) -/

/-- The reset event: every register and flag takes its reset value; no transaction is issued and no response is
returned, so the ports stay as they are. -/
def resetBlock (s : State) : State :=
  { s with
    coef := State.reset.coef
    tFine := State.reset.tFine
    tOut := State.reset.tOut
    pOut := State.reset.pOut
    hOut := State.reset.hOut
    calValid := State.reset.calValid
    tfSet := State.reset.tfSet }

end Sys2Proof.Machine
end

