-- ==== Sys2Proof/Machine/Flags.lean ====
section
/-! DEFINITION. The two flags (10_state.md R27, R28), the status register (R30), and the checks of them that the commands make (60_exceptions.md R181). There are no condition codes (10_state.md R34). -/

namespace Sys2Proof.Machine

/-- `CAL_VALID <- b` (10_state.md R27). -/
def setCalValid (b : Bool) (s : State) : State := { s with calValid := b }

/-- `STATUS`: `CAL_VALID` in bit 0, `TF_SET` in bit 1, bits 31:2 read 0 (10_state.md R30). -/
def statusWord (s : State) : Word :=
  (0 : BitVec 30) ++ BitVec.ofBool s.tfSet ++ BitVec.ofBool s.calValid

/-- `if CAL_VALID == 0: raise UninitializedError` before anything is written (60_exceptions.md R181 (a)). -/
def requireCalibration (s : State) (body : State) : State :=
  if s.calValid then body else raise .uninitializedError s

/-- `if TF_SET == 0: raise UninitializedError` before anything is written (60_exceptions.md R181 (b)). -/
def requireFineTemperature (s : State) (body : State) : State :=
  if s.tfSet then body else raise .uninitializedError s

/-- The value of a register as `RDREG` returns it (10_state.md R31). -/
def readRegister (s : State) : Reg → Word
  | .coef c => s.coef.word c
  | .tFine => s.tFine
  | .tOut => s.tOut
  | .pOut => s.pOut
  | .hOut => s.hOut
  | .status => statusWord s

end Sys2Proof.Machine
end

