-- ==== Sys2Proof/Machine/Calibration.lean ====
section
/-! DEFINITION. The calibration unpacker and `LDCAL` (40_calibration_unpack.md). -/

namespace Sys2Proof.Machine

/-! ### The field extractors: pure functions of the image bytes `B` -/

/-- `U8(a)` (40_calibration_unpack.md R110). -/
def extractU8 (B : Addr → Byte) (a : Addr) : Byte := B a

/-- `S8(a)`: the pattern of an `s8` register (40_calibration_unpack.md R111). -/
def extractS8 (B : Addr → Byte) (a : Addr) : Byte := B a

/-- `U16LE(a)`: `B[a+1] ++ B[a]` (40_calibration_unpack.md R112; 20_memory.md R56). -/
def extractU16LE (B : Addr → Byte) (a : Addr) : Half := B (a + 1) ++ B a

/-- `S16LE(a)`: the same 16 bits as the pattern of an `s16` register (40_calibration_unpack.md R113; 20_memory.md R56). -/
def extractS16LE (B : Addr → Byte) (a : Addr) : Half := B (a + 1) ++ B a

/-- `NIB_H4[11:0] = B[0xE4][7:0] ++ B[0xE5][3:0]` (40_calibration_unpack.md R114). -/
def nibH4 (B : Addr → Byte) : BitVec 12 := B 0xE4 ++ (B 0xE5).extractLsb' 0 4

/-- `NIB_H5[11:0] = B[0xE6][7:0] ++ B[0xE5][7:4]` (40_calibration_unpack.md R115). -/
def nibH5 (B : Addr → Byte) : BitVec 12 := B 0xE6 ++ (B 0xE5).extractLsb' 4 4

/-- From the 12-bit pattern to the register: `sext_12` when `H45_SIGN_EXTEND`, else the pattern itself
(40_calibration_unpack.md R116). -/
def extendNibble (p : Params) (pattern : BitVec 12) : Half :=
  if p.h45SignExtend then pattern.signExtend 16 else pattern.setWidth 16

/-- `P3_ADDR` (40_calibration_unpack.md R118). -/
def p3Addr (p : Params) : Addr :=
  match p.p3Source with
  | .vendor => 0x92
  | .copyPasteBug => 0x90

/-! ### The unpack table (40_calibration_unpack.md R117), burst by burst (R119) -/

/-- `C[0..11]` from burst 1. -/
def commitBurst1 (p : Params) (B : Addr → Byte) (c : Coefs) : Coefs :=
  { c with
    t1 := extractU16LE B 0x88
    t2 := extractS16LE B 0x8A
    t3 := extractS16LE B 0x8C
    p1 := extractU16LE B 0x8E
    p2 := extractS16LE B 0x90
    p3 := extractS16LE B (p3Addr p)
    p4 := extractS16LE B 0x94
    p5 := extractS16LE B 0x96
    p6 := extractS16LE B 0x98
    p7 := extractS16LE B 0x9A
    p8 := extractS16LE B 0x9C
    p9 := extractS16LE B 0x9E }

/-- `C[12]` from burst 2. -/
def commitBurst2 (B : Addr → Byte) (c : Coefs) : Coefs := { c with h1 := extractU8 B 0xA1 }

/-- `C[13..17]` from burst 3. -/
def commitBurst3 (p : Params) (B : Addr → Byte) (c : Coefs) : Coefs :=
  { c with
    h2 := extractS16LE B 0xE1
    h3 := extractU8 B 0xE3
    h4 := extendNibble p (nibH4 B)
    h5 := extendNibble p (nibH5 B)
    h6 := extractS8 B 0xE7 }

/-- The body of `LDCAL`, in the order of 40_calibration_unpack.md R119: `CAL_VALID` is cleared first, each burst is
committed as soon as it succeeds, the first failure raises `TransportError` and issues no later burst (R120), and
`CAL_VALID` is set only at the end. -/
def loadCalibration (p : Params) (s₀ : State) : State :=
  match memRead 0x88 24 (setCalValid false s₀) with
  | (none, s) => raise .transportError s
  | (some b1, s) =>
    let s1 := { s with coef := commitBurst1 p (imageByte 0x88 b1) s.coef }
    match memRead 0xA1 1 s1 with
    | (none, s) => raise .transportError s
    | (some b2, s) =>
      let s2 := { s with coef := commitBurst2 (imageByte 0xA1 b2) s.coef }
      match memRead 0xE1 7 s2 with
      | (none, s) => raise .transportError s
      | (some b3, s) =>
        let s3 := { s with coef := commitBurst3 p (imageByte 0xE1 b3) s.coef }
        finish 0 (setCalValid true s3)

/-- `LDCAL` under given parameters: it stops with a named fault when one of its transactions is never answered
(93_implementation_defined.md U10; log entry 4), and otherwise runs to its response. -/
def execLdcalWith (p : Params) (s : State) : Result :=
  if transportHangs 3 s.transport then .fault .transactionNeverAnswered
  else .next (loadCalibration p s)

/-- `LDCAL` (40_calibration_unpack.md R119), with the default parameters of 00_scope.md R9 (log entry 6). -/
def execLdcal (s : State) : Result := execLdcalWith Config.params s

end Sys2Proof.Machine
end

