-- ==== Sys2Proof/Machine/Humidity.lean ====
section
/-! DEFINITION. `COMPH`, humidity compensation (43_compensate_humidity.md), in 64-bit wrapping arithmetic (R163). The formula body is the spec's, supplied by it from general knowledge (GK2; log entry 12). -/

namespace Sys2Proof.Machine

/-- `x` (43_compensate_humidity.md R160). -/
def humX (tf : Int) : Int := sub 64 tf 76800

/-- `A` (43_compensate_humidity.md R160). -/
def humA (c : Coefs) (tf adc : Int) : Int :=
  let n0 := sub 64 (sub 64 (shl 64 adc 14) (shl 64 (c.value .h4) 20)) (mul 64 (c.value .h5) (humX tf))
  asr (add 64 n0 16384) 15

/-- `Cq` (43_compensate_humidity.md R160). -/
def humC (c : Coefs) (tf : Int) : Int :=
  let x := humX tf
  let g := asr (mul 64 x (c.value .h6)) 10
  let h := add 64 (asr (mul 64 x (c.value .h3)) 11) 32768
  let m := add 64 (asr (mul 64 g h) 10) 2097152
  asr (add 64 (mul 64 m (c.value .h2)) 8192) 14

/-- `v` before the clamps (43_compensate_humidity.md R160). -/
def humPreClamp (c : Coefs) (tf adc : Int) : Int :=
  let v := mul 64 (humA c tf adc) (humC c tf)
  let s := asr v 15
  let k := asr (mul 64 (asr (mul 64 s s) 7) (c.value .h1)) 4
  sub 64 v k

/-- The two clamps, before the final shift (43_compensate_humidity.md R161). -/
def humClamp (v : Int) : Int := min (max v 0) 419430400

/-- The relative humidity in percent times 1024 (43_compensate_humidity.md R160, R162). -/
def humidity (c : Coefs) (tf adc : Int) : Int := asr (humClamp (humPreClamp c tf adc)) 12

/-- `H_OUT <- r`, and return it (43_compensate_humidity.md R160). -/
def commitHumidity (r : Int) (s : State) : State := finish (u32 r) { s with hOut := u32 r }

/-- `COMPH imm` (43_compensate_humidity.md R160). -/
def execComph (imm : Word) (s : State) : Result :=
  .next <| requireCalibration s <| requireFineTemperature s <|
    commitHumidity (humidity s.coef s.fine (immOperand imm)) s

end Sys2Proof.Machine
end

