-- ==== Sys2Proof/Machine/Pressure.lean ====
section
/-! DEFINITION. `COMPP`, pressure compensation (42_compensate_pressure.md), in 64-bit wrapping arithmetic (R154). The formula body is the spec's, supplied by it from general knowledge (GK1; log entry 12). -/

namespace Sys2Proof.Machine

/-- `a` (42_compensate_pressure.md R150). -/
def pressA (tf : Int) : Int := sub 64 tf 128000

/-- `sq` (42_compensate_pressure.md R150). -/
def pressSq (tf : Int) : Int := mul 64 (pressA tf) (pressA tf)

/-- `b` after its three terms (42_compensate_pressure.md R150). -/
def pressB (c : Coefs) (tf : Int) : Int :=
  let b := mul 64 (pressSq tf) (c.value .p6)
  let b := add 64 b (shl 64 (mul 64 (pressA tf) (c.value .p5)) 17)
  add 64 b (shl 64 (c.value .p4) 35)

/-- `c` (42_compensate_pressure.md R150). -/
def pressC (c : Coefs) (tf : Int) : Int :=
  add 64 (asr (mul 64 (pressSq tf) (c.value .p3)) 8) (shl 64 (mul 64 (pressA tf) (c.value .p2)) 12)

/-- `d`, the denominator (42_compensate_pressure.md R150, R151). -/
def pressD (c : Coefs) (tf : Int) : Int :=
  asr (mul 64 (add 64 (2 ^ 47) (pressC c tf)) (c.value .p1)) 33

/-- The quotient `p` after `sdiv64` (42_compensate_pressure.md R150). -/
def pressQuotient (c : Coefs) (tf adc : Int) : Int :=
  let p := sub 64 1048576 adc
  let num := mul 64 (sub 64 (shl 64 p 31) (pressB c tf)) 3125
  sdiv64 num (pressD c tf)

/-- The final `p` from the quotient (42_compensate_pressure.md R150). -/
def pressFinal (c : Coefs) (p : Int) : Int :=
  let e := asr (mul 64 (mul 64 (c.value .p9) (asr p 13)) (asr p 13)) 25
  let f := asr (mul 64 (c.value .p8) p) 19
  add 64 (asr (add 64 (add 64 p e) f) 8) (shl 64 (c.value .p7) 4)

/-- The pressure in pascal times 256 before narrowing; 0 when the division guard fires (42_compensate_pressure.md R150,
R151). -/
def pressure (c : Coefs) (tf adc : Int) : Int :=
  if pressD c tf = 0 then 0 else pressFinal c (pressQuotient c tf adc)

/-- `P_OUT <- u32(p)`, and return it (42_compensate_pressure.md R150). -/
def commitPressure (p : Int) (s : State) : State := finish (u32 p) { s with pOut := u32 p }

/-- `COMPP imm` (42_compensate_pressure.md R150). -/
def execCompp (imm : Word) (s : State) : Result :=
  .next <| requireCalibration s <| requireFineTemperature s <|
    commitPressure (pressure s.coef s.fine (immOperand imm)) s

end Sys2Proof.Machine
end

