-- ==== Sys2Proof/Machine/RegisterRead.lean ====
section
/-! DEFINITION. `RDREG`, register read (44_register_read.md). -/

namespace Sys2Proof.Machine

/-- Read a register the index names: a coefficient only while `CAL_VALID` (44_register_read.md R170, R171), any other
register at any time. -/
def readNamed (r : Reg) (s : State) : State :=
  match r with
  | .coef _ => requireCalibration s (finish (readRegister s r) s)
  | .tFine => finish (readRegister s r) s
  | .tOut => finish (readRegister s r) s
  | .pOut => finish (readRegister s r) s
  | .hOut => finish (readRegister s r) s
  | .status => finish (readRegister s r) s

/-- `RDREG idx` (44_register_read.md R170). A reserved index, which the decoder does not let through, raises
`IllegalCommand` here as it does there (10_state.md R31). -/
def execRdreg (idx : Byte) (s : State) : Result :=
  match regOfIndex idx with
  | some r => .next (readNamed r s)
  | none => .next (raise .illegalCommand s)

end Sys2Proof.Machine
end

