-- ==== Sys2Proof/Machine/Temperature.lean ====
section
/-! DEFINITION. `COMPT`, temperature compensation (41_compensate_temperature.md), in 32-bit wrapping arithmetic (R141). -/

namespace Sys2Proof.Machine

/-- `var1` (41_compensate_temperature.md R140). -/
def tempVar1 (T1 T2 adc : Int) : Int :=
  let a := asr adc 3
  let b := sub 32 a (shl 32 T1 1)
  asr (mul 32 b T2) 11

/-- `var2` (41_compensate_temperature.md R140). -/
def tempVar2 (T1 T3 adc : Int) : Int :=
  let c := sub 32 (asr adc 4) T1
  let d := mul 32 c c
  let e := asr d 12
  asr (mul 32 e T3) 14

/-- `tf`, the new `T_FINE` (41_compensate_temperature.md R140). -/
def fineTemperature (T1 T2 T3 adc : Int) : Int := add 32 (tempVar1 T1 T2 adc) (tempVar2 T1 T3 adc)

/-- `T` in units of 0.01 degrees Celsius (41_compensate_temperature.md R140, R142). -/
def temperature (tf : Int) : Int := asr (add 32 (mul 32 tf 5) 128) 8

/-- `T_FINE <- tf`, `TF_SET <- 1`, `T_OUT <- T`, and return `T` (41_compensate_temperature.md R140). -/
def commitTemperature (tf : Int) (s : State) : State :=
  finish (u32 (temperature tf))
    { s with tFine := u32 tf, tfSet := true, tOut := u32 (temperature tf) }

/-- `COMPT imm` (41_compensate_temperature.md R140). -/
def execCompt (imm : Word) (s : State) : Result :=
  .next <| requireCalibration s <|
    commitTemperature (fineTemperature (s.coef.value .t1) (s.coef.value .t2) (s.coef.value .t3) (immOperand imm)) s

end Sys2Proof.Machine
end

