-- ==== Sys2Proof/Machine/Dispatch.lean ====
section
/-! DEFINITION. One arm per command: each calls the meaning of its instruction. -/

namespace Sys2Proof.Machine

def exec (i : Instr) (s : State) : Host.Outcome State Fault Refusal :=
  match i with
  | .ldcal => Sys2Proof.Machine.execLdcal s
  | .compt imm => Sys2Proof.Machine.execCompt imm s
  | .compp imm => Sys2Proof.Machine.execCompp imm s
  | .comph imm => Sys2Proof.Machine.execComph imm s
  | .rdreg idx => Sys2Proof.Machine.execRdreg idx s

end Sys2Proof.Machine
end

