-- ==== Sys2Proof/Machine/CommandPort.lean ====
section
/-! DEFINITION. The command port: what the block does with the next input of the host. -/

namespace Sys2Proof.Machine

/-- One command word: a legal one runs, an illegal one raises `IllegalCommand` at decode, before any state is read or
written and before any transaction is issued (30_encoding.md R86; 60_exceptions.md R183). -/
def runCommand (run : Instr → State → Result) (w : Command) (s : State) : Result :=
  match decode w with
  | .ok i => run i s
  | .error _ => .next (raise .illegalCommand s)

/-- Take the next input of the host. With none the block is passive (60_exceptions.md R184; log entry 8); a reset acts
between commands (70_reset_and_hazards.md R210); overlapping commands have no meaning (R216; log entry 9). The position
in the host's list advances by one whatever the status (10_state.md R29). -/
def takeInput (run : Instr → State → Result) (s : State) : Result :=
  match s.inputs with
  | [] => .next s
  | .command w :: rest => runCommand run w { s with inputs := rest }
  | .reset :: rest => .next (resetBlock { s with inputs := rest })
  | .overlapping _ _ :: _ => .refused .overlappingCommands

/-- The meanings under given parameters: only `LDCAL` depends on them (00_scope.md R9). With the defaults this is
`exec`. -/
def execWith (p : Params) (i : Instr) (s : State) : Result :=
  match i with
  | .ldcal => execLdcalWith p s
  | .compt imm => execCompt imm s
  | .compp imm => execCompp imm s
  | .comph imm => execComph imm s
  | .rdreg idx => execRdreg idx s

end Sys2Proof.Machine
end

