-- ==== Sys2Proof/Machine/Step.lean ====
section
/-! DEFINITION. One step of the machine: one input of the host (00_scope.md R6). -/

namespace Sys2Proof.Machine

/-- One step: the block takes the host's next input. -/
def step (s : State) : Host.Outcome State Fault Refusal := takeInput exec s

/-- One step of the machine with other parameters than the default (00_scope.md R9; log entry 6). -/
def stepWith (p : Params) (s : State) : Host.Outcome State Fault Refusal := takeInput (execWith p) s

/-- The host presents this command word next, before the inputs already queued: the block fetches nothing, commands come
from the host (10_state.md R29; log entry 10). -/
def State.withFetchWord (s : State) (nbits w : Nat) : State :=
  { s with inputs := .command (tableCommand nbits w) :: s.inputs }

end Sys2Proof.Machine
end

