-- ==== Sys2Proof/Machine/Assembler.lean ====
section
/-! DEFINITION. The assembly syntax of 30_encoding.md R89 and the pseudo-instruction of R91: one line of text to the command words it stands for. -/

namespace Sys2Proof.Machine

/-- A register's name in assembly (30_encoding.md R89; 10_state.md R21, R31). -/
def regName : Reg → String
  | .coef .t1 => "T1" | .coef .t2 => "T2" | .coef .t3 => "T3"
  | .coef .p1 => "P1" | .coef .p2 => "P2" | .coef .p3 => "P3" | .coef .p4 => "P4" | .coef .p5 => "P5"
  | .coef .p6 => "P6" | .coef .p7 => "P7" | .coef .p8 => "P8" | .coef .p9 => "P9"
  | .coef .h1 => "H1" | .coef .h2 => "H2" | .coef .h3 => "H3"
  | .coef .h4 => "H4" | .coef .h5 => "H5" | .coef .h6 => "H6"
  | .tFine => "T_FINE" | .tOut => "T_OUT" | .pOut => "P_OUT" | .hOut => "H_OUT" | .status => "STATUS"

/-- White space within a line. -/
def isBlank (c : Char) : Bool := c == ' ' || c == '\t'

/-- A text without the white space at its two ends. -/
def trimBlanks (cs : List Char) : List Char := ((cs.dropWhile isBlank).reverse.dropWhile isBlank).reverse

/-- A text cut at its commas. -/
def splitCommas : List Char → List (List Char)
  | [] => [[]]
  | c :: cs =>
    if c = ',' then [] :: splitCommas cs
    else match splitCommas cs with
      | [] => [[c]]
      | w :: ws => (c :: w) :: ws

/-- The value of a digit, decimal or hexadecimal. -/
def digitValue (c : Char) : Option Nat :=
  if '0'.toNat ≤ c.toNat ∧ c.toNat ≤ '9'.toNat then some (c.toNat - '0'.toNat)
  else if 'a'.toNat ≤ c.toNat ∧ c.toNat ≤ 'f'.toNat then some (c.toNat - 'a'.toNat + 10)
  else if 'A'.toNat ≤ c.toNat ∧ c.toNat ≤ 'F'.toNat then some (c.toNat - 'A'.toNat + 10)
  else none

/-- Digits in a base, most significant first, after a value already read. -/
def digitsFrom (base : Nat) : Nat → List Char → Option Nat
  | acc, [] => some acc
  | acc, c :: cs =>
    match digitValue c with
    | some d => if d < base then digitsFrom base (acc * base + d) cs else none
    | none => none

/-- One or more digits in a base. -/
def parseDigits (base : Nat) (cs : List Char) : Option Nat := if cs = [] then none else digitsFrom base 0 cs

/-- A decimal or `0x` hexadecimal natural number. -/
def parseNatural (cs : List Char) : Option Nat :=
  match cs with
  | '0' :: 'x' :: rest => parseDigits 16 rest
  | _ => parseDigits 10 cs

/-- A decimal or `0x` hexadecimal integer, with a minus sign for a negative one. -/
def parseInteger (cs : List Char) : Option Int :=
  match cs with
  | '-' :: rest => (parseNatural rest).map fun n => -(n : Int)
  | _ => (parseNatural cs).map fun n => (n : Int)

/-- `imm`: an integer in `-2^31 .. 2^32 - 1`, encoded as `zext_32(imm mod 2^32)` (30_encoding.md R89). -/
def parseImm (cs : List Char) : Option Word :=
  match parseInteger cs with
  | some v => if -(2 ^ 31) ≤ v ∧ v ≤ 2 ^ 32 - 1 then some (BitVec.ofInt 32 v) else none
  | none => none

/-- `reg`: a register name, or a number 0..255 (30_encoding.md R89). -/
def parseReg (cs : List Char) : Option Byte :=
  match registerTable.findIdx? fun r => decide ((regName r).toList = cs) with
  | some i => some (BitVec.ofNat 8 i)
  | none =>
    match parseNatural cs with
    | some n => if n ≤ 255 then some (BitVec.ofNat 8 n) else none
    | none => none

/-- A mnemonic with its operand texts to command words (30_encoding.md R89, R91). -/
def assembleOperation (mnemonic : List Char) (args : List (List Char)) : Option (List Command) :=
  if mnemonic = "LDCAL".toList then
    match args with
    | [] => some [encode .ldcal]
    | _ => none
  else if mnemonic = "COMPALL".toList then
    match args with
    | [t, p, h] =>
      match parseImm t, parseImm p, parseImm h with
      | some t, some p, some h => some ((Instr.compall t p h).map encode)
      | _, _, _ => none
    | _ => none
  else
    match args with
    | [x] =>
      if mnemonic = "COMPT".toList then (parseImm x).map fun v => [encode (.compt v)]
      else if mnemonic = "COMPP".toList then (parseImm x).map fun v => [encode (.compp v)]
      else if mnemonic = "COMPH".toList then (parseImm x).map fun v => [encode (.comph v)]
      else if mnemonic = "RDREG".toList then (parseReg x).map fun v => [encode (.rdreg v)]
      else none
    | _ => none

/-- One line of assembly: `;` starts a comment, the mnemonic stands first in upper case, operands are separated by
commas (30_encoding.md R89). A line without a command gives no word. -/
def assembleLine (line : List Char) : Option (List Command) :=
  let text := trimBlanks (line.takeWhile fun c => c != ';')
  let mnemonic := text.takeWhile fun c => !isBlank c
  let rest := trimBlanks (text.dropWhile fun c => !isBlank c)
  if mnemonic = [] then some []
  else assembleOperation mnemonic (if rest = [] then [] else (splitCommas rest).map trimBlanks)

end Sys2Proof.Machine
end

