-- ==== Sys2Proof/Machine/Datapath.lean ====
section
/-! DEFINITION. A second reading of the three formulas, as fixed-width two's-complement words in the form the document and the vendor print them. No meaning calls it: the statements prove the meanings equal to it. -/

namespace Sys2Proof.Machine

/-- The document's four printed lines up to `t_fine`, with the brackets of 90_conflicts.md C2, on 32-bit words. -/
def fineTemperatureWord (c : Coefs) (adc : Word) : Word :=
  let T1 : Word := c.t1.setWidth 32
  let T2 : Word := c.t2.signExtend 32
  let T3 : Word := c.t3.signExtend 32
  let var1 := ((adc.sshiftRight 3 - (T1 <<< 1)) * T2).sshiftRight 11
  let var2 := ((((adc.sshiftRight 4 - T1) * (adc.sshiftRight 4 - T1)).sshiftRight 12) * T3).sshiftRight 14
  var1 + var2

/-- `T = (t_fine*5 + 128) >> 8` on 32-bit words (41_compensate_temperature.md R140). -/
def temperatureWord (tFine : Word) : Word := (tFine * 5 + 128).sshiftRight 8

/-- The division's denominator in the vendor's form, on 64-bit words (42_compensate_pressure.md R150, the column
"vendor"). -/
def pressureDenominatorWord (c : Coefs) (tFine : Word) : BitVec 64 :=
  let P1 : BitVec 64 := c.p1.setWidth 64
  let P2 : BitVec 64 := c.p2.signExtend 64
  let P3 : BitVec 64 := c.p3.signExtend 64
  let var1 : BitVec 64 := tFine.signExtend 64 - 128000
  let var1 := ((var1 * var1 * P3).sshiftRight 8) + ((var1 * P2) <<< 12)
  (((1#64 <<< 47) + var1) * P1).sshiftRight 33

/-- The vendor's pressure routine on 64-bit words, narrowed to 32 bits (42_compensate_pressure.md R150). -/
def pressureWord (c : Coefs) (tFine adc : Word) : Word :=
  let P4 : BitVec 64 := c.p4.signExtend 64
  let P5 : BitVec 64 := c.p5.signExtend 64
  let P6 : BitVec 64 := c.p6.signExtend 64
  let P7 : BitVec 64 := c.p7.signExtend 64
  let P8 : BitVec 64 := c.p8.signExtend 64
  let P9 : BitVec 64 := c.p9.signExtend 64
  let var1 : BitVec 64 := tFine.signExtend 64 - 128000
  let var2 := var1 * var1 * P6
  let var2 := var2 + ((var1 * P5) <<< 17)
  let var2 := var2 + (P4 <<< 35)
  if pressureDenominatorWord c tFine = 0 then 0
  else
    let p : BitVec 64 := 1048576 - adc.signExtend 64
    let p := (((p <<< 31) - var2) * 3125).sdiv (pressureDenominatorWord c tFine)
    let var1 := (P9 * p.sshiftRight 13 * p.sshiftRight 13).sshiftRight 25
    let var2 := (P8 * p).sshiftRight 19
    let p := (p + var1 + var2).sshiftRight 8 + (P7 <<< 4)
    p.setWidth 32

/-- The vendor's one-variable humidity routine up to the clamps, on 64-bit words (43_compensate_humidity.md R160, "the
vendor's one-variable form"). -/
def humidityPreClampWord (c : Coefs) (tFine adc : Word) : BitVec 64 :=
  let H1 : BitVec 64 := c.h1.setWidth 64
  let H2 : BitVec 64 := c.h2.signExtend 64
  let H3 : BitVec 64 := c.h3.setWidth 64
  let H4 : BitVec 64 := c.h4.signExtend 64
  let H5 : BitVec 64 := c.h5.signExtend 64
  let H6 : BitVec 64 := c.h6.signExtend 64
  let v : BitVec 64 := tFine.signExtend 64 - 76800
  let v := ((((adc.signExtend 64 <<< 14) - (H4 <<< 20) - (H5 * v)) + 16384).sshiftRight 15) *
    (((((((v * H6).sshiftRight 10) * (((v * H3).sshiftRight 11) + 32768)).sshiftRight 10) + 2097152) * H2
      + 8192).sshiftRight 14)
  v - ((((v.sshiftRight 15 * v.sshiftRight 15).sshiftRight 7) * H1).sshiftRight 4)

/-- The two clamps and the final shift on 64-bit words (43_compensate_humidity.md R160, R161). -/
def humidityWord (c : Coefs) (tFine adc : Word) : Word :=
  let v := humidityPreClampWord c tFine adc
  let v := if v.slt 0 then 0 else v
  let v := if (419430400#64).slt v then 419430400 else v
  (v.sshiftRight 12).setWidth 32

end Sys2Proof.Machine
end

