-- ==== Sys2Proof/Machine/Scaling.lean ====
section
/-! DEFINITION. The exact rational values that the fixed-point results stand for; the division itself is the caller's (00_scope.md R16; rules R142, R152, R162). -/

namespace Sys2Proof.Machine

/-- Degrees Celsius: `T / 100` of the signed result (41_compensate_temperature.md R142). -/
def degreesCelsius (value : Word) : Rat := (value.toInt : Rat) / 100

/-- Pascal: `value / 256` of the unsigned result (42_compensate_pressure.md R152). -/
def pascal (value : Word) : Rat := (value.toNat : Rat) / 256

/-- Hectopascal: `value / 25600` (42_compensate_pressure.md R152; 90_conflicts.md C4). -/
def hectopascal (value : Word) : Rat := (value.toNat : Rat) / 25600

/-- Percent relative humidity: `value / 1024` (43_compensate_humidity.md R162). -/
def percentHumidity (value : Word) : Rat := (value.toNat : Rat) / 1024

end Sys2Proof.Machine
end

