-- ==== Sys2Proof/Machine/SensorMap.lean ====
section
/-! DEFINITION. The sensor's register map and the raw-sample bytes, recorded because the map "must be preserved" (20_memory.md R51, R58, R62). The block reads only the calibration rows; the rest is the orchestrator's, outside the block (00_scope.md R5). -/

namespace Sys2Proof.Machine

/-- What stands at a row of the map (20_memory.md R51). -/
inductive MapField
  | tempPressCalibration
  | h1Calibration
  | humidityCalibration
  | humidityControl
  | measurementControl
  | configuration
  | pressureRaw
  | temperatureRaw
  | humidityRaw
  deriving DecidableEq, Repr

/-- Who accesses a row (20_memory.md R51). -/
inductive Accessor
  | block
  | orchestrator
  deriving DecidableEq, Repr

/-- One row of the map: a base address and a number of bytes. -/
structure MapRow where
  base : Nat
  size : Nat
  field : MapField
  accessor : Accessor
  deriving DecidableEq, Repr

/-- The register map (20_memory.md R51). -/
def registerMap : List MapRow :=
  [ { base := 0x88, size := 24, field := .tempPressCalibration, accessor := .block },
    { base := 0xA1, size := 1, field := .h1Calibration, accessor := .block },
    { base := 0xE1, size := 7, field := .humidityCalibration, accessor := .block },
    { base := 0xF2, size := 1, field := .humidityControl, accessor := .orchestrator },
    { base := 0xF4, size := 1, field := .measurementControl, accessor := .orchestrator },
    { base := 0xF5, size := 1, field := .configuration, accessor := .orchestrator },
    { base := 0xF7, size := 3, field := .pressureRaw, accessor := .orchestrator },
    { base := 0xFA, size := 3, field := .temperatureRaw, accessor := .orchestrator },
    { base := 0xFD, size := 2, field := .humidityRaw, accessor := .orchestrator } ]

/-- The row an address lies in; the unlisted addresses lie in none. -/
def mapRowOf (a : Addr) : Option MapRow :=
  registerMap.find? fun r => decide (r.base ≤ a.toNat) && decide (a.toNat < r.base + r.size)

/-- The sensor's operating modes (20_memory.md R62). -/
inductive OperatingMode
  | sleep
  | forced
  | normal
  deriving DecidableEq, Repr

/-- The whole-byte value the orchestrator writes to 0xF4 for a mode (20_memory.md R62; 90_conflicts.md C12). -/
def OperatingMode.controlByte : OperatingMode → Byte
  | .sleep => 0x24
  | .forced => 0x25
  | .normal => 0x27

/-- `adc_H = B[0xFD] ++ B[0xFE]`, assembled by the host (20_memory.md R58). -/
def rawHumidity (B : Addr → Byte) : Word := (0 : BitVec 16) ++ B 0xFD ++ B 0xFE

/-- `adc = B[a] ++ B[a+1] ++ B[a+2][7:4]`, assembled by the host (20_memory.md R58). PRESUMED: which 20 of the 24 bits is
the spec's general knowledge and no rule of the block (log entry 14). -/
def rawTwentyBits (B : Addr → Byte) (a : Addr) : Word :=
  (0 : BitVec 12) ++ B a ++ B (a + 1) ++ (B (a + 2)).extractLsb' 4 4

/-- `adc_P` from 0xF7 (20_memory.md R58; log entry 14). -/
def rawPressure (B : Addr → Byte) : Word := rawTwentyBits B 0xF7

/-- `adc_T` from 0xFA (20_memory.md R58; log entry 14). -/
def rawTemperature (B : Addr → Byte) : Word := rawTwentyBits B 0xFA

end Sys2Proof.Machine
end

