-- ==== Sys2Proof/Safety.lean ====
section
/-! DEFINITION. What a sound state of the block is, in the terms the statements use: the facts that reset leaves and every step keeps. -/

namespace Sys2Proof

open Sys2Proof.Machine

/-- `T_FINE` and `T_OUT` stay within the bounds of 41_compensate_temperature.md R143. -/
def TemperatureBounded (s : State) : Prop :=
  (-1179648 ≤ s.tFine.toInt ∧ s.tFine.toInt ≤ 1179646) ∧ (-23040 ≤ s.tOut.toInt ∧ s.tOut.toInt ≤ 23040)

/-- `T = floor((5 * T_FINE + 128) / 256)` relates the two temperature registers (41_compensate_temperature.md R142). -/
def TemperatureCoupled (s : State) : Prop := s.tOut.toInt = (5 * s.tFine.toInt + 128) / 256

/-- `H_OUT` is in `0 .. 102400` (43_compensate_humidity.md R161). -/
def HumidityBounded (s : State) : Prop := s.hOut.toNat ≤ 102400

/-- `H4` and `H5` lie in the range 10_state.md R21 gives them under the default `H45_SIGN_EXTEND`. -/
def NibblesBounded (s : State) : Prop :=
  (-2048 ≤ s.coef.h4.toInt ∧ s.coef.h4.toInt ≤ 2047) ∧ (-2048 ≤ s.coef.h5.toInt ∧ s.coef.h5.toInt ≤ 2047)

/-- While no `COMPT` has completed since reset, the registers it feeds hold their reset values (10_state.md R28, R33). -/
def UntouchedBeforeCompt (s : State) : Prop :=
  s.tfSet = false → s.tFine = 0 ∧ s.tOut = 0 ∧ s.pOut = 0 ∧ s.hOut = 0

/-- A response word the block can produce: status `OK` with any value, or one of the three fault codes with value 0
(30_encoding.md R82). -/
def ResponseLegal (r : Response) : Prop :=
  r.toNat < 2 ^ 32 ∨ r = 0x0100000000 ∨ r = 0x0200000000 ∨ r = 0x0300000000

/-- A transaction the block issues: one of the three bursts (20_memory.md R54, R61). -/
def BurstTransaction (t : Transaction) : Prop :=
  t = .memRead 0x88 24 ∨ t = .memRead 0xA1 1 ∨ t = .memRead 0xE1 7

/-- Every image the environment still holds ready is in canonical form. -/
def MemoriesCanonical (s : State) : Prop := ∀ a ∈ s.transport, TransportAnswer.wf a = true

/-- A sound state. -/
structure Sound (s : State) : Prop where
  temperatureBounded : TemperatureBounded s
  temperatureCoupled : TemperatureCoupled s
  humidityBounded : HumidityBounded s
  nibblesBounded : NibblesBounded s
  untouchedBeforeCompt : UntouchedBeforeCompt s
  responsesLegal : ∀ r ∈ s.responses, ResponseLegal r
  busOnlyBursts : ∀ t ∈ s.bus, BurstTransaction t
  memoriesCanonical : MemoriesCanonical s

end Sys2Proof
end

