-- ==== Sys2Proof/Certificates/Slice0/Obligations.lean ====
section
/-! DEFINITION. The statements for the provers. -/

namespace Sys2Proof.Machine

/-! ### Words and tables the statements spell out on their own -/

/-- A response word with status `OK` (30_encoding.md R82). -/
def okWord (v : Word) : Response := (0x00 : Byte) ++ v

/-- The response word of `UninitializedError` (30_encoding.md R82). -/
def uninitWord : Response := 0x0100000000

/-- The response word of `TransportError` (30_encoding.md R82). -/
def transportWord : Response := 0x0200000000

/-- The response word of `IllegalCommand` (30_encoding.md R82). -/
def illegalWord : Response := 0x0300000000

/-- The environment's answer to the next transaction: `some B` where it succeeds, `B a` being the byte it returns for
address `a`, and `none` where it fails; then the answers and the free index that remain (20_memory.md section 3). A listed
answer decides, a free value does where the list is empty, and no relation holds for a transaction that is never
answered. That answers come from these two sources is the MODEL's form (log entries 3 and 4). -/
def EnvironmentAnswers (q : List TransportAnswer) (k : Nat) (answer : Option (Addr → Byte))
    (q' : List TransportAnswer) (k' : Nat) : Prop :=
  match q with
  | [] => answer = (if Config.transportSucceeds k then some (Config.sensorByte k) else none) ∧ q' = [] ∧ k' = k + 1
  | .image m :: rest => answer = some (readByte m) ∧ q' = rest ∧ k' = k
  | .failed :: rest => answer = none ∧ q' = rest ∧ k' = k
  | .never :: _ => False

/-- The next three transactions succeed with the bytes `B1`, `B2`, `B3`, and leave these answers and this free index. -/
def BurstsSucceed (s : State) (B1 B2 B3 : Addr → Byte) (q : List TransportAnswer) (k : Nat) : Prop :=
  ∃ q1 k1 q2 k2, EnvironmentAnswers s.transport s.freeIdx (some B1) q1 k1 ∧
    EnvironmentAnswers q1 k1 (some B2) q2 k2 ∧ EnvironmentAnswers q2 k2 (some B3) q k

/-- The 16 bits at two addresses, the first one low (20_memory.md R56). -/
def littleEndian (B : Addr → Byte) (lo hi : Addr) : Half := B hi ++ B lo

/-- `C[0..11]` as the addresses of 20_memory.md R52 give them. -/
def loadedFirst (B : Addr → Byte) (c : Coefs) : Coefs :=
  { c with
    t1 := littleEndian B 0x88 0x89, t2 := littleEndian B 0x8A 0x8B, t3 := littleEndian B 0x8C 0x8D
    p1 := littleEndian B 0x8E 0x8F, p2 := littleEndian B 0x90 0x91, p3 := littleEndian B 0x92 0x93
    p4 := littleEndian B 0x94 0x95, p5 := littleEndian B 0x96 0x97, p6 := littleEndian B 0x98 0x99
    p7 := littleEndian B 0x9A 0x9B, p8 := littleEndian B 0x9C 0x9D, p9 := littleEndian B 0x9E 0x9F }

/-- `C[12]` (20_memory.md R52). -/
def loadedSecond (B : Addr → Byte) (c : Coefs) : Coefs := { c with h1 := B 0xA1 }

/-- `C[13..17]` (20_memory.md R52), `H4` and `H5` sign-extended from bit 11 (40_calibration_unpack.md R116). -/
def loadedThird (B : Addr → Byte) (c : Coefs) : Coefs :=
  { c with
    h2 := littleEndian B 0xE1 0xE2
    h3 := B 0xE3
    h4 := (B 0xE4 ++ (B 0xE5).extractLsb' 0 4 : BitVec 12).signExtend 16
    h5 := (B 0xE6 ++ (B 0xE5).extractLsb' 4 4 : BitVec 12).signExtend 16
    h6 := B 0xE7 }

/-- The coefficient file a successful load leaves, all 18 registers. -/
def loaded (B1 B2 B3 : Addr → Byte) : Coefs := loadedThird B3 (loadedSecond B2 (loadedFirst B1 Coefs.zero))

/-- The value `RDREG` returns for each index, in order (10_state.md R31). -/
def registerWords (s : State) : List Word :=
  [ s.coef.t1.setWidth 32, s.coef.t2.signExtend 32, s.coef.t3.signExtend 32,
    s.coef.p1.setWidth 32, s.coef.p2.signExtend 32, s.coef.p3.signExtend 32, s.coef.p4.signExtend 32,
    s.coef.p5.signExtend 32, s.coef.p6.signExtend 32, s.coef.p7.signExtend 32, s.coef.p8.signExtend 32,
    s.coef.p9.signExtend 32,
    s.coef.h1.setWidth 32, s.coef.h2.signExtend 32, s.coef.h3.setWidth 32, s.coef.h4.signExtend 32,
    s.coef.h5.signExtend 32, s.coef.h6.signExtend 32,
    s.tFine, s.tOut, s.pOut, s.hOut,
    BitVec.ofNat 32 ((if s.calValid then 1 else 0) + 2 * (if s.tfSet then 1 else 0)) ]

/-- Two states that agree on everything but the coefficient file, and on that too while `CAL_VALID` is 1. -/
def AgreeUnlessUncalibrated (s s' : State) : Prop :=
  s' = { s with coef := s'.coef } ∧ (s.calValid = true → s'.coef = s.coef)

/-- An input of the host that is neither a reset nor a `COMPT`. -/
def LeavesFineTemperature : HostInput → Prop
  | .command w => ∀ imm, decode w ≠ .ok (.compt imm)
  | .reset => False
  | .overlapping _ _ => True

end Sys2Proof.Machine

open Sys2Proof
open Sys2Proof.Machine

/-! ### Encoding and the command port -/

/-- Encoding then decoding any well-formed command gives it back, at every operand value (30_encoding.md sections 1, 4,
5, the spec's decisions D2, D3, D6, D21). -/
def Obligations.DecodeInvertsEncode : Prop :=
  ∀ i : Instr, i.wellFormed = true → decode (encode i) = .ok i

/-- A word that decodes is the encoding of a well-formed command: each word has one meaning. -/
def Obligations.EncodeInvertsDecode : Prop :=
  ∀ (w : Command) (i : Instr), decode w = .ok i → i.wellFormed = true ∧ encode i = w

/-- Every legal word selects the operation that 30_encoding.md section 5 says, with the operand taken from the low bits;
`op` and `arg` are read arithmetically. -/
def Obligations.LegalWordsSelectTheirOperation : Prop :=
  ∀ w : Command,
    (w.toNat / 2 ^ 32 = 1 → w.toNat % 2 ^ 32 = 0 → decode w = .ok .ldcal) ∧
    (w.toNat / 2 ^ 32 = 2 → decode w = .ok (.compt (BitVec.ofNat 32 w.toNat))) ∧
    (w.toNat / 2 ^ 32 = 3 → decode w = .ok (.compp (BitVec.ofNat 32 w.toNat))) ∧
    (w.toNat / 2 ^ 32 = 4 → decode w = .ok (.comph (BitVec.ofNat 32 w.toNat))) ∧
    (w.toNat / 2 ^ 32 = 5 → w.toNat % 2 ^ 32 ≤ 0x16 → decode w = .ok (.rdreg (BitVec.ofNat 8 w.toNat)))

/-- The illegal words are exactly the five classes of 30_encoding.md section 5 (the spec's decision D21); the all-zero and
the all-ones word are among them. -/
def Obligations.IllegalWordsAreExactlyTheFiveClasses : Prop :=
  (∀ w : Command, (∃ e, decode w = .error e) ↔
    (w.toNat / 2 ^ 32 = 0 ∨ 6 ≤ w.toNat / 2 ^ 32 ∨
      (w.toNat / 2 ^ 32 = 1 ∧ w.toNat % 2 ^ 32 ≠ 0) ∨
      (w.toNat / 2 ^ 32 = 5 ∧ w.toNat % 2 ^ 32 / 256 ≠ 0) ∨
      (w.toNat / 2 ^ 32 = 5 ∧ 0x17 ≤ w.toNat % 256))) ∧
  (∃ e, decode 0x0000000000 = .error e) ∧ (∃ e, decode 0xFFFFFFFFFF = .error e)

/-- The rows of the opcode table do not overlap, the decoder accepts exactly the words that match a row, but for
`RDREG` words with an index above 0x16, and the command it then gives is the one whose mnemonic the row carries
(30_encoding.md section 3). -/
def Obligations.DecoderAgreesWithOpcodeTable : Prop :=
  (∀ w : Command, ∀ r ∈ opcodeTable, ∀ r' ∈ opcodeTable, r.covers w = true → r'.covers w = true → r = r') ∧
  (∀ w : Command, (∃ i, decode w = .ok i) ↔
    ∃ r ∈ opcodeTable, r.covers w = true ∧ (r.mnemonic = "RDREG" → w.toNat % 256 ≤ 0x16)) ∧
  (∀ (w : Command) (i : Instr), decode w = .ok i → ∀ r ∈ opcodeTable, r.covers w = true → r.mnemonic = i.mnemonic)

/-- Words written out from the encodings of 30_encoding.md section 6 decode to the commands they stand for. -/
def Obligations.WrittenWordsDecode : Prop :=
  decode 0x0100000000 = .ok .ldcal ∧ decode 0x020007EED0 = .ok (.compt 519888) ∧
  decode 0x03000655AC = .ok (.compp 415148) ∧ decode 0x0400007530 = .ok (.comph 30000) ∧
  decode 0x0500000016 = .ok (.rdreg 0x16) ∧ decode 0x02FFFFFFFF = .ok (.compt (-1))

/-- A step runs the decoded command: the input is taken from the host's list and `exec` runs on the rest. -/
def Obligations.StepRunsTheDecodedCommand : Prop :=
  ∀ (s : State) (w : Command) (rest : List HostInput) (i : Instr),
    s.inputs = .command w :: rest → decode w = .ok i → step s = exec i { s with inputs := rest }

/-- An illegal word is answered with `ILLEGAL` and changes nothing: no register, no flag, no transaction
(30_encoding.md section 5 and 60_exceptions.md section 1, the spec's decision D21). -/
def Obligations.IllegalCommandHasNoEffect : Prop :=
  ∀ (s : State) (w : Command) (rest : List HostInput) (e : DecodeError),
    s.inputs = .command w :: rest → decode w = .error e →
      step s = .next { s with inputs := rest, responses := illegalWord :: s.responses }

/-- Every command that completes takes one input and returns exactly one response word, of the form of 30_encoding.md
section 2 (the spec's decision D4). -/
def Obligations.EveryCommandAnswersOnce : Prop :=
  ∀ (s t : State) (w : Command) (rest : List HostInput),
    s.inputs = .command w :: rest → step s = .next t →
      t.inputs = rest ∧ ∃ r, t.responses = r :: s.responses ∧ ResponseLegal r

/-- A reset between commands puts every register and flag to its reset value, issues no transaction and returns no
response (70_reset_and_hazards.md section 1, the spec's decision D20). -/
def Obligations.ResetEventRestoresRegisters : Prop :=
  ∀ (s : State) (rest : List HostInput), s.inputs = .reset :: rest →
    step s = .next { State.reset with
      inputs := rest, transport := s.transport, bus := s.bus, responses := s.responses, freeIdx := s.freeIdx }

/-- With nothing presented the block is passive, and overlapping commands are refused. The form of both is the MODEL's
choice (log entries 8 and 9), after 60_exceptions.md section 2 and 93_implementation_defined.md U6. -/
def Obligations.PassiveAndOverlapping : Prop :=
  (∀ s : State, s.inputs = [] → step s = .next s) ∧
  (∀ (s : State) (a b : Command) (rest : List HostInput), s.inputs = .overlapping a b :: rest →
    step s = .refused .overlappingCommands)

/-- The default parameters give the machine, and only `LDCAL` depends on the parameters (00_scope.md section 4, the
spec's decisions D13, D14). -/
def Obligations.ParametersOnlyReachLdcal : Prop :=
  (∀ s : State, stepWith Config.params s = step s) ∧
  (∀ (p : Params) (i : Instr) (s : State), i ≠ .ldcal → execWith p i s = exec i s)

/-! ### Reset -/

/-- Every register and flag is 0 after reset (10_state.md section 7, the spec's decision D19). -/
def Obligations.ResetStateIsZero : Prop :=
  (∀ c : CoefName, State.reset.coef.value c = 0) ∧
  State.reset.tFine.toInt = 0 ∧ State.reset.tOut.toInt = 0 ∧ State.reset.pOut.toNat = 0 ∧
  State.reset.hOut.toNat = 0 ∧ State.reset.calValid = false ∧ State.reset.tfSet = false ∧
  (statusWord State.reset).toNat = 0

/-- After reset the compensation commands and the coefficient reads answer `UNINIT`, the other reads answer `OK` with
value 0, and an `LDCAL` whose bursts succeed answers `OK`, free answers included (70_reset_and_hazards.md sections 1, 2).
That a read before the first write shows 0 rests on the reset values, which are a choice (log entry 11, the spec's
decision D19). -/
def Obligations.AfterResetOnlyLoadsAndPlainReadsSucceed : Prop :=
  ∀ s : State,
    (∀ imm : Word,
      exec (.compt imm) (resetBlock s) =
        .next { resetBlock s with responses := uninitWord :: s.responses } ∧
      exec (.compp imm) (resetBlock s) =
        .next { resetBlock s with responses := uninitWord :: s.responses } ∧
      exec (.comph imm) (resetBlock s) =
        .next { resetBlock s with responses := uninitWord :: s.responses }) ∧
    (∀ idx : Byte, idx.toNat ≤ 0x11 →
      exec (.rdreg idx) (resetBlock s) =
        .next { resetBlock s with responses := uninitWord :: s.responses }) ∧
    (∀ idx : Byte, 0x12 ≤ idx.toNat → idx.toNat ≤ 0x16 →
      exec (.rdreg idx) (resetBlock s) =
        .next { resetBlock s with responses := okWord 0 :: s.responses }) ∧
    (∀ (B1 B2 B3 : Addr → Byte) (q : List TransportAnswer) (k : Nat), BurstsSucceed s B1 B2 B3 q k →
      ∃ t, exec .ldcal (resetBlock s) = .next t ∧ t.calValid = true ∧ t.coef = loaded B1 B2 B3 ∧
        t.responses = okWord 0 :: s.responses)

/-! ### Calibration -/

/-- The extractors give integers of the documented types: bytes unsigned or signed, 16-bit values little-endian; and
each is used for the coefficients its rule names. -/
def Obligations.ExtractorsGiveTypedIntegers : Prop :=
  ∀ (B : Addr → Byte) (a : Addr),
    (extractU8 B a).toNat = (B a).toNat ∧
    (extractS8 B a).toInt = sext 8 (B a).toNat ∧
    (extractU16LE B a).toNat = (B a).toNat + 256 * (B (a + 1)).toNat ∧
    (extractS16LE B a).toInt = sext 16 ((B a).toNat + 256 * (B (a + 1)).toNat : Nat) ∧
    ∀ (p : Params) (c : Coefs),
      let c1 := commitBurst1 p B c
      let c3 := commitBurst3 p B c
      (commitBurst2 B c).value .h1 = (extractU8 B 0xA1).toNat ∧ c3.value .h3 = (extractU8 B 0xE3).toNat ∧
      c3.value .h6 = (extractS8 B 0xE7).toInt ∧
      c1.value .t1 = (extractU16LE B 0x88).toNat ∧ c1.value .p1 = (extractU16LE B 0x8E).toNat ∧
      c1.value .t2 = (extractS16LE B 0x8A).toInt ∧ c1.value .t3 = (extractS16LE B 0x8C).toInt ∧
      c1.value .p2 = (extractS16LE B 0x90).toInt ∧ c1.value .p3 = (extractS16LE B (p3Addr p)).toInt ∧
      c1.value .p4 = (extractS16LE B 0x94).toInt ∧ c1.value .p5 = (extractS16LE B 0x96).toInt ∧
      c1.value .p6 = (extractS16LE B 0x98).toInt ∧ c1.value .p7 = (extractS16LE B 0x9A).toInt ∧
      c1.value .p8 = (extractS16LE B 0x9C).toInt ∧ c1.value .p9 = (extractS16LE B 0x9E).toInt ∧
      c3.value .h2 = (extractS16LE B 0xE1).toInt

/-- The two nibble-packed patterns are the document's formulas over unsigned bytes, and the bit strings the rules give:
the low nibble of the byte at 0xE5 goes to `H4`, its high nibble to `H5`. -/
def Obligations.NibblePatternsFollowTheFormulas : Prop :=
  ∀ B : Addr → Byte,
    (nibH4 B).toNat = ((B 0xE4).toNat <<< 4) ||| ((B 0xE5).toNat &&& 0x0F) ∧
    (nibH5 B).toNat = ((B 0xE6).toNat <<< 4) ||| ((B 0xE5).toNat >>> 4) ∧
    (nibH4 B).extractLsb' 4 8 = B 0xE4 ∧ (nibH4 B).extractLsb' 0 4 = (B 0xE5).extractLsb' 0 4 ∧
    (nibH5 B).extractLsb' 4 8 = B 0xE6 ∧ (nibH5 B).extractLsb' 0 4 = (B 0xE5).extractLsb' 4 4

/-- The document's worked example of the nibble unpacking, under either setting of `H45_SIGN_EXTEND`: the patterns, and
what the third burst of a load leaves in `H4` and `H5`. -/
def Obligations.NibbleExampleUnpacks : Prop :=
  ∀ (B : Addr → Byte) (p : Params) (c : Coefs), B 0xE4 = 0x12 → B 0xE5 = 0x34 → B 0xE6 = 0x56 →
    (nibH4 B).toNat = 0x124 ∧ (nibH5 B).toNat = 0x563 ∧
    (commitBurst3 p B c).value .h4 = 292 ∧ (commitBurst3 p B c).value .h5 = 1379

/-- What `LDCAL` stores in `H4` and `H5` under either setting of `H45_SIGN_EXTEND`: the 12-bit pattern sign-extended from
bit 11, or the pattern itself. The two settings store the same exactly when bit 7 of the byte at 0xE4 (0xE6 for `H5`) is
0 (40_calibration_unpack.md section 1, the spec's decision D13; 95 Q10). -/
def Obligations.NibbleExtensionFollowsTheParameter : Prop :=
  (∀ (p : Params) (s : State) (B1 B2 B3 : Addr → Byte) (q : List TransportAnswer) (k : Nat),
    BurstsSucceed s B1 B2 B3 q k →
      ∃ t, execLdcalWith p s = .next t ∧
        t.coef.value .h4 = (if p.h45SignExtend then sext 12 (nibH4 B3).toNat else ((nibH4 B3).toNat : Int)) ∧
        t.coef.value .h5 = (if p.h45SignExtend then sext 12 (nibH5 B3).toNat else ((nibH5 B3).toNat : Int))) ∧
  (∀ (p p' : Params) (s t t' : State) (B1 B2 B3 : Addr → Byte) (q : List TransportAnswer) (k : Nat),
    BurstsSucceed s B1 B2 B3 q k → p.h45SignExtend = true → p'.h45SignExtend = false →
    execLdcalWith p s = .next t → execLdcalWith p' s = .next t' →
      (t.coef.h4 = t'.coef.h4 ↔ (B3 0xE4).toNat < 128) ∧ (t.coef.h5 = t'.coef.h5 ↔ (B3 0xE6).toNat < 128))

/-- One read transaction answers with exactly the bytes asked for, byte `i` from address `addr + i`, or fails as a whole;
it is the one transaction logged and it consumes one answer, listed or free. Every transaction has an answer but one that
is never answered (20_memory.md section 3). Where the answers come from is log entry 3, the log of transactions is log
entry 7, and that free answers always come is log entry 4. -/
def Obligations.ReadTransactionIsWholeOrFails : Prop :=
  (∀ (s : State) (addr : Addr) (n : Nat) (q : List TransportAnswer) (k : Nat),
    (∀ B : Addr → Byte, EnvironmentAnswers s.transport s.freeIdx (some B) q k →
      ∃ bs, memRead addr n s =
          (some bs, { s with bus := .memRead addr n :: s.bus, transport := q, freeIdx := k }) ∧
        bs.length = n ∧ ∀ i, i < n → bs[i]? = some (B (addr + BitVec.ofNat 8 i))) ∧
    (EnvironmentAnswers s.transport s.freeIdx none q k →
      memRead addr n s = (none, { s with bus := .memRead addr n :: s.bus, transport := q, freeIdx := k }))) ∧
  (∀ s : State, (∃ answer q k, EnvironmentAnswers s.transport s.freeIdx answer q k) ↔
    s.transport.head? ≠ some .never)

/-- `LDCAL` whose three bursts succeed, by listed or by free answers, completes: every coefficient is loaded from its
address, the three transactions are issued in order, `CAL_VALID` is set, the response is `OK` with value 0, and nothing
else changes (40_calibration_unpack.md section 2 and 20_memory.md sections 2, 3, the spec's decisions D13 to D16; the
form of the answers and of the log is log entries 3 and 7). -/
def Obligations.LdcalLoadsEveryCoefficient : Prop :=
  ∀ (s : State) (B1 B2 B3 : Addr → Byte) (q : List TransportAnswer) (k : Nat), BurstsSucceed s B1 B2 B3 q k →
    exec .ldcal s = .next { s with
      coef := loaded B1 B2 B3
      calValid := true
      transport := q
      freeIdx := k
      bus := .memRead 0xE1 7 :: .memRead 0xA1 1 :: .memRead 0x88 24 :: s.bus
      responses := okWord 0 :: s.responses }

/-- `LDCAL` raises `TransportError` at the failing burst, be the answers listed or free: earlier bursts are committed,
later ones are not issued, and `CAL_VALID` is 0. The form of the answers and of the log is log entries 3 and 7. -/
def Obligations.LdcalFailureKeepsEarlierBursts : Prop :=
  ∀ (s : State) (B1 B2 : Addr → Byte) (q1 q2 q3 : List TransportAnswer) (k1 k2 k3 : Nat),
    (EnvironmentAnswers s.transport s.freeIdx none q1 k1 →
      exec .ldcal s = .next { s with
        calValid := false, transport := q1, freeIdx := k1
        bus := .memRead 0x88 24 :: s.bus
        responses := transportWord :: s.responses }) ∧
    (EnvironmentAnswers s.transport s.freeIdx (some B1) q1 k1 → EnvironmentAnswers q1 k1 none q2 k2 →
      exec .ldcal s = .next { s with
        coef := loadedFirst B1 s.coef
        calValid := false, transport := q2, freeIdx := k2
        bus := .memRead 0xA1 1 :: .memRead 0x88 24 :: s.bus
        responses := transportWord :: s.responses }) ∧
    (EnvironmentAnswers s.transport s.freeIdx (some B1) q1 k1 → EnvironmentAnswers q1 k1 (some B2) q2 k2 →
      EnvironmentAnswers q2 k2 none q3 k3 →
      exec .ldcal s = .next { s with
        coef := loadedSecond B2 (loadedFirst B1 s.coef)
        calValid := false, transport := q3, freeIdx := k3
        bus := .memRead 0xE1 7 :: .memRead 0xA1 1 :: .memRead 0x88 24 :: s.bus
        responses := transportWord :: s.responses })

/-- Whatever the environment answers, free values included, `LDCAL` completes with `OK` and `CAL_VALID = 1` or with
`TRANSPORT` and `CAL_VALID = 0`; it leaves `T_FINE`, `TF_SET`, `T_OUT`, `P_OUT`, `H_OUT` alone, and the answers it does
not consume stay as they are (40_calibration_unpack.md section 2, the spec's decisions D16, D26, D29). That free
answers always come is the MODEL's assumption (log entry 4, after 70_reset_and_hazards.md section 4). -/
def Obligations.LdcalAnswersUnderEveryEnvironment : Prop :=
  ∀ s : State, .never ∉ s.transport →
    ∃ t, exec .ldcal s = .next t ∧
      ((t.calValid = true ∧ t.responses = okWord 0 :: s.responses) ∨
        (t.calValid = false ∧ t.responses = transportWord :: s.responses)) ∧
      t.tFine = s.tFine ∧ t.tfSet = s.tfSet ∧ t.tOut = s.tOut ∧ t.pOut = s.pOut ∧ t.hOut = s.hOut ∧
      t.inputs = s.inputs ∧ ∃ k, k ≤ 3 ∧ t.transport = s.transport.drop k

/-- `LDCAL` stops the machine exactly when a transaction it issues is never answered. That the stop is a fault is the
MODEL's choice (log entry 4), after 93_implementation_defined.md U10. -/
def Obligations.LdcalStopsOnlyWithoutAnAnswer : Prop :=
  ∀ s : State, exec .ldcal s = .fault .transactionNeverAnswered ↔
    (∃ rest, s.transport = .never :: rest) ∨
    (∃ m1 rest, s.transport = .image m1 :: .never :: rest) ∨
    (∃ m1 m2 rest, s.transport = .image m1 :: .image m2 :: .never :: rest)

/-- Loading again overwrites all 18 coefficients whatever they held, the same bytes give the same file, a failed load may
be retried from the first burst, and a load that fails leaves the block uncalibrated even where it had been ready. -/
def Obligations.ReloadOverwritesEverything : Prop :=
  (∀ (s t : State) (c : Coefs), exec .ldcal s = .next t → t.calValid = true →
    exec .ldcal { s with coef := c } = .next t) ∧
  (∀ (s : State) (B1 B2 B3 : Addr → Byte) (q q' : List TransportAnswer) (k k' : Nat),
    BurstsSucceed s B1 B2 B3 q k → BurstsSucceed { s with transport := q, freeIdx := k } B1 B2 B3 q' k' →
      ∃ t u, exec .ldcal s = .next t ∧ exec .ldcal t = .next u ∧ t.calValid = true ∧ u.calValid = true ∧
        u.coef = t.coef ∧ u.bus = .memRead 0xE1 7 :: .memRead 0xA1 1 :: .memRead 0x88 24 :: t.bus) ∧
  (∀ (s t : State), exec .ldcal s = .next t → t.calValid = false →
    ∀ (B1 B2 B3 : Addr → Byte) (q : List TransportAnswer) (k : Nat), BurstsSucceed t B1 B2 B3 q k →
      ∃ u, exec .ldcal t = .next u ∧ u.calValid = true ∧
        u.bus = .memRead 0xE1 7 :: .memRead 0xA1 1 :: .memRead 0x88 24 :: t.bus ∧ u.coef = loaded B1 B2 B3) ∧
  (∀ (s t : State), s.calValid = true → exec .ldcal s = .next t → t.responses = transportWord :: s.responses →
    t.calValid = false)

/-- With `P3_ADDR = 0x90` a load differs from the default one in `P3` only, which receives what `P2` receives
(40_calibration_unpack.md section 1, the spec's decision D14). -/
def Obligations.CopyPasteParameterDuplicatesP2 : Prop :=
  ∀ (s : State) (B1 B2 B3 : Addr → Byte) (q : List TransportAnswer) (k : Nat), BurstsSucceed s B1 B2 B3 q k →
      ∃ t, exec .ldcal s = .next t ∧
        execLdcalWith { Config.params with p3Source := .copyPasteBug } s =
          .next { t with coef := { t.coef with p3 := t.coef.p2 } }

/-- A command other than `LDCAL` issues no transaction at all and leaves the environment's answers alone, `LDCAL` issues
only its three bursts, and none of them is a write (20_memory.md section 3; that the reads are these three bursts is the
spec's decision D15, and the log of transactions is log entry 7). -/
def Obligations.OnlyLdcalReadsAndNothingWrites : Prop :=
  ∀ (i : Instr) (s t : State), exec i s = .next t →
    ∃ issued, t.bus = issued ++ s.bus ∧
      (∀ x ∈ issued, x = .memRead 0x88 24 ∨ x = .memRead 0xA1 1 ∨ x = .memRead 0xE1 7) ∧
      (∀ a v, Transaction.memWrite a v ∉ issued) ∧
      (i ≠ .ldcal → issued = [] ∧ t.transport = s.transport)

/-- The addresses the three bursts read are exactly those the register map gives to the block (20_memory.md sections 2,
3): no address of the orchestrator's and no unlisted one. -/
def Obligations.BurstsReadExactlyTheBlocksAddresses : Prop :=
  ∀ a : Addr,
    ((a - 0x88).toNat < 24 ∨ (a - 0xA1).toNat < 1 ∨ (a - 0xE1).toNat < 7) ↔
      ∃ r, mapRowOf a = some r ∧ r.accessor = .block

/-! ### Temperature -/

/-- `COMPT` computes the document's algorithm in 32-bit wrapping words, writes `T_FINE`, `TF_SET` and `T_OUT` and nothing
else, and returns `T`; while `CAL_VALID = 0` it raises `UninitializedError` and writes nothing. The two
differences never wrap. The last clause is the rule's worked example. -/
def Obligations.ComptComputesTemperature : Prop :=
  (∀ imm : Word, encode (.compt imm) = (0x02 : Byte) ++ imm) ∧
  (∀ (s : State) (imm : Word), s.calValid = true →
    exec (.compt imm) s = .next { s with
      tFine := fineTemperatureWord s.coef imm
      tfSet := true
      tOut := temperatureWord (fineTemperatureWord s.coef imm)
      responses := okWord (temperatureWord (fineTemperatureWord s.coef imm)) :: s.responses }) ∧
  (∀ (s : State) (imm : Word), s.calValid = false →
    exec (.compt imm) s = .next { s with responses := uninitWord :: s.responses }) ∧
  (∀ (c : Coefs) (imm : Word),
    sub 32 (asr (immOperand imm) 3) (shl 32 (c.value .t1) 1) = imm.toInt / 8 - 2 * (c.t1.toNat : Int) ∧
    sub 32 (asr (immOperand imm) 4) (c.value .t1) = imm.toInt / 16 - (c.t1.toNat : Int)) ∧
  (∀ c : Coefs, c.t1 = 27504 → c.t2 = 26435 → c.t3 = -1000 →
    tempVar1 (c.value .t1) (c.value .t2) (immOperand 519888) = 128793 ∧
    tempVar2 (c.value .t1) (c.value .t3) (immOperand 519888) = -371 ∧
    fineTemperatureWord c 519888 = 128422 ∧ temperatureWord 128422 = 2508)

/-- The bounds of 41_compensate_temperature.md section "R143" (an inference the spec marks as derived) hold for every
operand and every coefficient set, so neither the sum nor the last step wraps. -/
def Obligations.TemperatureStaysInBounds : Prop :=
  ∀ (c : Coefs) (imm : Word),
    let var1 := tempVar1 (c.value .t1) (c.value .t2) (immOperand imm)
    let var2 := tempVar2 (c.value .t1) (c.value .t3) (immOperand imm)
    let tf := fineTemperature (c.value .t1) (c.value .t2) (c.value .t3) (immOperand imm)
    (-1048576 ≤ var1 ∧ var1 ≤ 1048575) ∧ (-131072 ≤ var2 ∧ var2 ≤ 131071) ∧ tf = var1 + var2 ∧
    (-1179648 ≤ tf ∧ tf ≤ 1179646) ∧ temperature tf = (5 * tf + 128) / 256 ∧
    (-23040 ≤ temperature tf ∧ temperature tf ≤ 23040)

/-- Where the three products fit in 32 bits the result is the exact integer formula with floors, so the choice of
wraparound is invisible (41_compensate_temperature.md section "R141", the spec's decision D7). -/
def Obligations.TemperatureIsExactWhenProductsFit : Prop :=
  ∀ (c : Coefs) (imm : Word),
    let x := imm.toInt
    let T1 : Int := c.t1.toNat
    let T2 := c.t2.toInt
    let T3 := c.t3.toInt
    let b := x / 8 - 2 * T1
    let d := (x / 16 - T1) * (x / 16 - T1)
    (-2147483648 ≤ b * T2 ∧ b * T2 ≤ 2147483647) → d ≤ 2147483647 →
    (-2147483648 ≤ d / 4096 * T3 ∧ d / 4096 * T3 ≤ 2147483647) →
      (fineTemperatureWord c imm).toInt = b * T2 / 2048 + d / 4096 * T3 / 16384

/-- `COMPT` is a pure function of its operand and `T1`, `T2`, `T3`: it overwrites `T_FINE` and `T_OUT`, and the result
depends on nothing else. -/
def Obligations.ComptIsPure : Prop :=
  ∀ (s s' : State) (imm : Word), s.calValid = true → s'.calValid = true →
    s.coef.t1 = s'.coef.t1 → s.coef.t2 = s'.coef.t2 → s.coef.t3 = s'.coef.t3 →
      ∃ t t' r, exec (.compt imm) s = .next t ∧ exec (.compt imm) s' = .next t' ∧
        t.tFine = t'.tFine ∧ t.tOut = t'.tOut ∧
        t.responses = r :: s.responses ∧ t'.responses = r :: s'.responses

/-- The low three bits of the operand of `COMPT` are ignored (41_compensate_temperature.md section "R145"; 95 Q9). -/
def Obligations.ComptIgnoresLowThreeBits : Prop :=
  ∀ (s : State) (imm imm' : Word), imm.toNat / 8 = imm'.toNat / 8 →
    exec (.compt imm) s = exec (.compt imm') s

/-- The result is the temperature in units of 0.01 °C: `T = floor((5 * T_FINE + 128) / 256)`, it is the value
returned, it stands for `T / 100` °C, and 5123 stands for 51.23 °C. -/
def Obligations.TemperatureHasHundredthResolution : Prop :=
  (∀ (s : State) (imm : Word), s.calValid = true →
    ∃ t, exec (.compt imm) s = .next t ∧ t.tOut.toInt = (5 * t.tFine.toInt + 128) / 256 ∧
      t.responses = okWord t.tOut :: s.responses) ∧
  (∀ v : Word, degreesCelsius v = (v.toInt : Rat) / 100) ∧ degreesCelsius 5123 = 5123 / 100

/-! ### Pressure -/

/-- `COMPP` computes the vendor's routine in 64-bit wrapping words with the division guard, writes `P_OUT` and nothing
else, and returns it; it raises `UninitializedError` and writes nothing while either flag is 0. The routine is the
spec's general knowledge (GK1; log entry 12); 42_compensate_pressure.md, the spec's decisions D7, D9 to D11, D30. -/
def Obligations.ComppComputesPressure : Prop :=
  (∀ (s : State) (imm : Word), s.calValid = true → s.tfSet = true →
    exec (.compp imm) s = .next { s with
      pOut := pressureWord s.coef s.tFine imm
      responses := okWord (pressureWord s.coef s.tFine imm) :: s.responses }) ∧
  (∀ (s : State) (imm : Word), s.calValid = false ∨ s.tfSet = false →
    exec (.compp imm) s = .next { s with responses := uninitWord :: s.responses })

/-- The division guard: a zero denominator gives `OK` with value 0, whatever the operand and `P4`..`P9` are; `P1 = 0`
forces it, and so does `T_FINE = 1176576` with `P2 = -32768`, `P3 = 0` for any `P1`. That `P_OUT` is written with 0
is the spec's decision D30 (42_compensate_pressure.md section "R151"). -/
def Obligations.PressureGuardReturnsZero : Prop :=
  (∀ (s : State) (imm : Word), s.calValid = true → s.tfSet = true →
    pressureDenominatorWord s.coef s.tFine = 0 →
      exec (.compp imm) s = .next { s with pOut := 0, responses := okWord 0 :: s.responses }) ∧
  (∀ (c : Coefs) (tf : Word), c.p1 = 0 → pressureDenominatorWord c tf = 0) ∧
  (∀ c : Coefs, c.p2 = -32768 → c.p3 = 0 → pressureDenominatorWord c 1176576 = 0)

/-- `COMPP` uses whatever `T_FINE` holds: with both flags set it answers `OK` for every `T_FINE`, its result is a function
of the operand, `T_FINE` and `P1`..`P9` alone (which the spec derives), it faults while no `COMPT` has completed, and a
stale `T_FINE` gives another, defined result (the spec's example). The formula body behind the results is PRESUMED (GK1;
log entry 12); 42_compensate_pressure.md. -/
def Obligations.ComppUsesTheLastFineTemperature : Prop :=
  (∀ (s s' : State) (imm : Word), s.calValid = true → s.tfSet = true → s'.calValid = true → s'.tfSet = true →
    s.tFine = s'.tFine →
    s.coef.p1 = s'.coef.p1 → s.coef.p2 = s'.coef.p2 → s.coef.p3 = s'.coef.p3 → s.coef.p4 = s'.coef.p4 →
    s.coef.p5 = s'.coef.p5 → s.coef.p6 = s'.coef.p6 → s.coef.p7 = s'.coef.p7 → s.coef.p8 = s'.coef.p8 →
    s.coef.p9 = s'.coef.p9 →
      ∃ t t' v, exec (.compp imm) s = .next t ∧ exec (.compp imm) s' = .next t' ∧
        t.responses = okWord v :: s.responses ∧ t'.responses = okWord v :: s'.responses) ∧
  (∀ (s : State) (imm : Word), s.calValid = true → s.tfSet = false →
    exec (.compp imm) s = .next { s with responses := uninitWord :: s.responses }) ∧
  (∀ s : State, s.calValid = true → s.tfSet = true →
    s.coef.p1 = 36477 → s.coef.p2 = -10685 → s.coef.p3 = 3024 → s.coef.p4 = 2855 → s.coef.p5 = 140 → s.coef.p6 = -7 →
    s.coef.p7 = 15500 → s.coef.p8 = -14600 → s.coef.p9 = 6000 →
      (s.tFine = 128422 → exec (.compp 415148) s = .next { s with
        pOut := 25767233, responses := okWord 25767233 :: s.responses }) ∧
      (s.tFine = 262276 → exec (.compp 415148) s = .next { s with
        pOut := 26803502, responses := okWord 26803502 :: s.responses }))

/-- The `P_OUT` that `COMPP` writes, and answers, is pascal times 256: it stands for its low 32 bits of the computed
pressure divided by 256 Pa, which is the same divided by 25600 hPa, and from 0 up to under 2^24 Pa; with the spec's example
set it stands for 25767233 / 256 Pa, and 24674867 stands for 963.862 hPa to three places (42_compensate_pressure.md, the
meaning of the result; 90_conflicts.md C4). The formula body behind the value is PRESUMED (GK1; log entry 12). -/
def Obligations.PressureScales : Prop :=
  (∀ (s : State) (imm : Word), s.calValid = true → s.tfSet = true →
    ∃ t, exec (.compp imm) s = .next t ∧ t.responses = okWord t.pOut :: s.responses ∧
      pascal t.pOut = ((pressure s.coef s.fine imm.toInt % 2 ^ 32 : Int) : Rat) / 256 ∧
      hectopascal t.pOut = ((pressure s.coef s.fine imm.toInt % 2 ^ 32 : Int) : Rat) / 25600 ∧
      0 ≤ pascal t.pOut ∧ pascal t.pOut < 2 ^ 24) ∧
  (∀ s : State, s.calValid = true → s.tfSet = true → s.tFine = 128422 →
    s.coef.p1 = 36477 → s.coef.p2 = -10685 → s.coef.p3 = 3024 → s.coef.p4 = 2855 → s.coef.p5 = 140 → s.coef.p6 = -7 →
    s.coef.p7 = 15500 → s.coef.p8 = -14600 → s.coef.p9 = 6000 →
      ∃ t, exec (.compp 415148) s = .next t ∧ pascal t.pOut = 25767233 / 256) ∧
  (963.8615 ≤ hectopascal 24674867 ∧ hectopascal 24674867 < 963.8625)

/-! ### Humidity -/

/-- `COMPH` computes the vendor's routine in 64-bit wrapping words with the clamp, writes `H_OUT` and nothing else, and
returns it; it raises `UninitializedError` and writes nothing while either flag is 0. The routine is the spec's
general knowledge (GK2; log entry 12); 43_compensate_humidity.md, the spec's decisions D7, D11, D12. -/
def Obligations.ComphComputesHumidity : Prop :=
  (∀ (s : State) (imm : Word), s.calValid = true → s.tfSet = true →
    exec (.comph imm) s = .next { s with
      hOut := humidityWord s.coef s.tFine imm
      responses := okWord (humidityWord s.coef s.tFine imm) :: s.responses }) ∧
  (∀ (s : State) (imm : Word), s.calValid = false ∨ s.tfSet = false →
    exec (.comph imm) s = .next { s with responses := uninitWord :: s.responses })

/-- The clamp acts on the value before the final shift by 12, so the result is in `0 .. 102400`, that is 0 to 100 %RH,
for every operand, every `T_FINE` and every coefficient set (43_compensate_humidity.md, the clamp). The value before the
clamps is that of a PRESUMED formula body (GK2; log entry 12); the bound does not depend on it. -/
def Obligations.HumidityIsClampedBeforeTheShift : Prop :=
  ∀ (s : State) (imm : Word), s.calValid = true → s.tfSet = true →
    ∃ t, exec (.comph imm) s = .next t ∧ t.responses = okWord t.hOut :: s.responses ∧
      (t.hOut.toNat : Int) =
        (min (max (humidityPreClampWord s.coef s.tFine imm).toInt 0) 419430400) / 4096 ∧
      t.hOut.toNat ≤ 102400 ∧ percentHumidity t.hOut ≤ 100

/-- `COMPH` uses whatever `T_FINE` holds: with both flags set it answers `OK` for every `T_FINE`, its result is a function
of the operand, `T_FINE` and `H1`..`H6` alone (which the spec derives), it faults while no `COMPT` has completed, and a
stale `T_FINE` gives another, defined result (the spec's example). The formula body behind the results is PRESUMED (GK2;
log entry 12); 43_compensate_humidity.md. -/
def Obligations.ComphUsesTheLastFineTemperature : Prop :=
  (∀ (s s' : State) (imm : Word), s.calValid = true → s.tfSet = true → s'.calValid = true → s'.tfSet = true →
    s.tFine = s'.tFine →
    s.coef.h1 = s'.coef.h1 → s.coef.h2 = s'.coef.h2 → s.coef.h3 = s'.coef.h3 → s.coef.h4 = s'.coef.h4 →
    s.coef.h5 = s'.coef.h5 → s.coef.h6 = s'.coef.h6 →
      ∃ t t' v, exec (.comph imm) s = .next t ∧ exec (.comph imm) s' = .next t' ∧
        t.responses = okWord v :: s.responses ∧ t'.responses = okWord v :: s'.responses) ∧
  (∀ (s : State) (imm : Word), s.calValid = true → s.tfSet = false →
    exec (.comph imm) s = .next { s with responses := uninitWord :: s.responses }) ∧
  (∀ s : State, s.calValid = true → s.tfSet = true →
    s.coef.h1 = 75 → s.coef.h2 = 370 → s.coef.h3 = 0 → s.coef.h4 = 300 → s.coef.h5 = 50 → s.coef.h6 = 30 →
      (s.tFine = 128422 → exec (.comph 30000) s = .next { s with
        hOut := 62390, responses := okWord 62390 :: s.responses }) ∧
      (s.tFine = 262276 → exec (.comph 30000) s = .next { s with
        hOut := 63496, responses := okWord 63496 :: s.responses }))

/-! ### Register read and status -/

/-- `RDREG` returns the register its index names, an unsigned coefficient zero-extended and a signed one sign-extended,
and changes nothing; a coefficient index answers `UNINIT` while `CAL_VALID = 0`, a reserved index `ILLEGAL`
(44_register_read.md and 10_state.md section 5, the spec's decisions D16, D18). -/
def Obligations.RdregReturnsTheNamedRegister : Prop :=
  ∀ (s : State) (idx : Byte),
    (idx.toNat ≤ 0x16 → (s.calValid = true ∨ 0x12 ≤ idx.toNat) →
      ∃ v, (registerWords s)[idx.toNat]? = some v ∧
        exec (.rdreg idx) s = .next { s with responses := okWord v :: s.responses }) ∧
    (idx.toNat ≤ 0x11 → s.calValid = false →
      exec (.rdreg idx) s = .next { s with responses := uninitWord :: s.responses }) ∧
    (0x17 ≤ idx.toNat →
      exec (.rdreg idx) s = .next { s with responses := illegalWord :: s.responses })

/-- `STATUS` shows `CAL_VALID` in bit 0 and `TF_SET` in bit 1; bits 31:2 read 0 (10_state.md section 5, the spec's
decision D18). -/
def Obligations.StatusShowsTheTwoFlags : Prop :=
  ∀ s : State, (statusWord s).getLsbD 0 = s.calValid ∧ (statusWord s).getLsbD 1 = s.tfSet ∧
    (∀ i, 2 ≤ i → (statusWord s).getLsbD i = false) ∧
    (statusWord s).toNat = (if s.calValid then 1 else 0) + 2 * (if s.tfSet then 1 else 0)

/-! ### Faults -/

/-- `UninitializedError` has no effect but its response: raised by the compensation commands and the coefficient reads
while `CAL_VALID = 0`, and by `COMPP` and `COMPH` while `TF_SET = 0` (60_exceptions.md section 1, the spec's decisions
D16, D17). -/
def Obligations.UninitializedErrorHasNoEffect : Prop :=
  ∀ (i : Instr) (s : State),
    ((s.calValid = false ∧
        ((∃ imm, i = .compt imm) ∨ (∃ imm, i = .compp imm) ∨ (∃ imm, i = .comph imm) ∨
          ∃ idx : Byte, i = .rdreg idx ∧ idx.toNat ≤ 0x11)) ∨
      (s.tfSet = false ∧ ((∃ imm, i = .compp imm) ∨ ∃ imm, i = .comph imm))) →
    exec i s = .next { s with responses := uninitWord :: s.responses }

/-- What is not a fault: every compensation command whose flags are set (`CAL_VALID` for `COMPT`, both for `COMPP` and
`COMPH`) answers `OK`, for every operand, every `T_FINE`, every coefficient set, a zero pressure denominator (value 0) and
wrapping arithmetic included, and the value it answers is the one its output register holds; and no bytes make a load
fail (60_exceptions.md section 1). That `P_OUT` is 0 on the guard is the spec's decision D30, and the denominator is of a
PRESUMED formula body (GK1; log entry 12). -/
def Obligations.CompensationNeverFaultsOnValues : Prop :=
  (∀ (s : State) (imm : Word), s.calValid = true →
    ∃ t, exec (.compt imm) s = .next t ∧ t.responses = okWord t.tOut :: s.responses) ∧
  (∀ (s : State) (imm : Word), s.calValid = true → s.tfSet = true →
    (∃ t, exec (.compp imm) s = .next t ∧ t.responses = okWord t.pOut :: s.responses ∧
      (pressureDenominatorWord s.coef s.tFine = 0 → t.pOut = 0)) ∧
    (∃ t, exec (.comph imm) s = .next t ∧ t.responses = okWord t.hOut :: s.responses)) ∧
  (∀ (s : State) (B1 B2 B3 : Addr → Byte) (q : List TransportAnswer) (k : Nat), BurstsSucceed s B1 B2 B3 q k →
    ∃ t, exec .ldcal s = .next t ∧ t.responses = okWord 0 :: s.responses)

/-- A command answered with a status other than `OK` changes no state, except that an `LDCAL` answered `TRANSPORT` has
cleared `CAL_VALID` and may have rewritten coefficients (60_exceptions.md section 4, the spec's decision D23; 95 Q6). -/
def Obligations.FailedCommandsChangeNothingElse : Prop :=
  ∀ (s t : State) (w : Command) (rest : List HostInput) (r : Response),
    s.inputs = .command w :: rest → step s = .next t → t.responses = r :: s.responses → 2 ^ 32 ≤ r.toNat →
      t = { s with inputs := rest, responses := r :: s.responses } ∨
      (decode w = .ok .ldcal ∧ r = transportWord ∧ t.calValid = false ∧
        t.tFine = s.tFine ∧ t.tOut = s.tOut ∧ t.pOut = s.pOut ∧ t.hOut = s.hOut ∧ t.tfSet = s.tfSet ∧
        t.inputs = rest)

/-! ### Who writes what: frames -/

/-- `T_FINE` is written by every `COMPT` that completes without a fault and by nothing else; `LDCAL` neither reads nor
writes it; `COMPP` and `COMPH` read it (their results can differ where only `T_FINE` differs) and never write it. -/
def Obligations.FineTemperatureIsWrittenOnlyByCompt : Prop :=
  (∀ (i : Instr) (s t : State), exec i s = .next t → (∀ imm, i ≠ .compt imm) → t.tFine = s.tFine) ∧
  (∀ (s : State) (imm : Word), s.calValid = true →
    ∃ t, exec (.compt imm) s = .next t ∧ t.tFine = fineTemperatureWord s.coef imm) ∧
  (∀ (s t : State) (x : Word), exec .ldcal s = .next t →
    exec .ldcal { s with tFine := x } = .next { t with tFine := x }) ∧
  (∃ (s : State) (x imm : Word) (t u : State), exec (.compp imm) s = .next t ∧
    exec (.compp imm) { s with tFine := x } = .next u ∧ t.responses ≠ u.responses) ∧
  (∃ (s : State) (x imm : Word) (t u : State), exec (.comph imm) s = .next t ∧
    exec (.comph imm) { s with tFine := x } = .next u ∧ t.responses ≠ u.responses)

/-- Only `LDCAL` writes a coefficient, and a later successful `LDCAL` overwrites all 18. -/
def Obligations.CoefficientsAreWrittenOnlyByLdcal : Prop :=
  (∀ (i : Instr) (s t : State), exec i s = .next t → i ≠ .ldcal → t.coef = s.coef) ∧
  (∀ (s : State) (B1 B2 B3 : Addr → Byte) (q : List TransportAnswer) (k : Nat), BurstsSucceed s B1 B2 B3 q k →
    ∃ t, exec .ldcal s = .next t ∧ t.coef = loaded B1 B2 B3)

/-- The two flags: only `LDCAL` changes `CAL_VALID`, and it is 1 after an `LDCAL` exactly when the response is `OK`;
`TF_SET` is set by a `COMPT` that completes and cleared by no command (10_state.md section 4, the spec's decisions
D16, D17). -/
def Obligations.FlagsFollowTheirRules : Prop :=
  ∀ (i : Instr) (s t : State), exec i s = .next t →
    (i ≠ .ldcal → t.calValid = s.calValid) ∧
    (i = .ldcal → (t.calValid = true ↔ t.responses = okWord 0 :: s.responses)) ∧
    ((∃ imm, i = .compt imm) → t.tfSet = (s.tfSet || s.calValid)) ∧
    ((∀ imm, i ≠ .compt imm) → t.tfSet = s.tfSet)

/-- The frame of the four commands that touch no memory: every coefficient, `CAL_VALID`, the host's further inputs and
every byte of every image the environment holds ready are unchanged; of the output registers and `TF_SET` each
command changes its own only (40 to 44, the lists "State written"). -/
def Obligations.ComputeAndReadFrame : Prop :=
  ∀ (i : Instr) (s t : State), i ≠ .ldcal → exec i s = .next t →
    t.coef = s.coef ∧ t.calValid = s.calValid ∧ t.inputs = s.inputs ∧ t.bus = s.bus ∧ t.freeIdx = s.freeIdx ∧
    t.transport = s.transport ∧
    (∀ (k : Nat) (m : Memory), s.transport[k]? = some (.image m) →
      ∃ m', t.transport[k]? = some (.image m') ∧ ∀ a : Addr, readByte m' a = readByte m a) ∧
    ((∀ imm, i ≠ .compt imm) → t.tFine = s.tFine ∧ t.tOut = s.tOut ∧ t.tfSet = s.tfSet) ∧
    ((∀ imm, i ≠ .compp imm) → t.pOut = s.pOut) ∧
    ((∀ imm, i ≠ .comph imm) → t.hOut = s.hOut) ∧
    ∃ r, t.responses = r :: s.responses

/-! ### Whole-machine rules -/

/-- Reset leaves a sound state. -/
def Obligations.ResetIsSound : Prop := Sound State.reset

/-- Every step keeps soundness: the temperature bounds and the relation of `T_OUT` to `T_FINE`, the humidity bound, the
range of `H4` and `H5`, the untouched registers before the first `COMPT`, legal responses, bursts only, canonical
images (the rules named in Sys2Proof/Safety.lean; 95 Q2, Q3, Q8). The canonical form of the images is the MODEL's own
convention (log entry 5), and the lists of responses and transactions are its records (log entry 7). -/
def Obligations.EveryStepKeepsSoundness : Prop :=
  ∀ s t : State, Sound s → step s = .next t → Sound t

/-- While `CAL_VALID = 0` nothing depends on the coefficient file: two states that differ only there step alike, with the
same response, until a load makes them equal (40_calibration_unpack.md section 2; 95 Q7). -/
def Obligations.UncalibratedCoefficientsAreUnobservable : Prop :=
  ∀ s s' t : State, AgreeUnlessUncalibrated s s' → step s = .next t →
    ∃ t', step s' = .next t' ∧ AgreeUnlessUncalibrated t t'

/-- Over any number of steps that take neither a `COMPT` nor a reset, reloads included, `T_FINE` and `TF_SET` stay what
they were: `COMPP` and `COMPH` use the `T_FINE` of the most recent completed `COMPT`, however old
(70_reset_and_hazards.md section 3). -/
def Obligations.FineTemperatureSurvivesUntilTheNextCompt : Prop :=
  ∀ (n : Nat) (s t : State), Host.Core.run Sys2Proof.core n s = .next t →
    (∀ x ∈ s.inputs.take n, LeavesFineTemperature x) → t.tFine = s.tFine ∧ t.tfSet = s.tfSet

/-- The pseudo-instruction `COMPALL t, p, h` on a calibrated block answers `OK` three times, and its pressure and humidity
are computed with the `T_FINE` of its own temperature; so two `COMPALL`s with the same operands return the same
results (30_encoding.md section 6, the spec's decision D27; 70_reset_and_hazards.md section 3). -/
def Obligations.CompallUsesItsOwnTemperature : Prop :=
  ∀ (s : State) (t p h : Word) (rest : List HostInput), s.calValid = true →
    s.inputs = (Instr.compall t p h).map (fun i => HostInput.command (encode i)) ++ rest →
      let tf := fineTemperatureWord s.coef t
      Host.Core.run Sys2Proof.core 3 s = .next { s with
        inputs := rest
        tFine := tf, tfSet := true
        tOut := temperatureWord tf, pOut := pressureWord s.coef tf p, hOut := humidityWord s.coef tf h
        responses := okWord (humidityWord s.coef tf h) :: okWord (pressureWord s.coef tf p) ::
          okWord (temperatureWord tf) :: s.responses }

/-! ### Assembly -/

/-- The assembly operations give the words of the table of 30_encoding.md section 6: an immediate in
`-2^31 .. 2^32 - 1` by its low 32 bits, any other refused; a register by name or by a number up to 255, a larger one
refused (the spec's decision D27; spelling details are log entry 17). -/
def Obligations.AssemblyGivesTheTabledWords : Prop :=
  (∀ (text : List Char) (v : Int), parseInteger text = some v →
    (-(2 ^ 31) ≤ v → v ≤ 2 ^ 32 - 1 →
      assembleOperation "COMPT".toList [text] = some [(0x02 : Byte) ++ BitVec.ofInt 32 v] ∧
      assembleOperation "COMPP".toList [text] = some [(0x03 : Byte) ++ BitVec.ofInt 32 v] ∧
      assembleOperation "COMPH".toList [text] = some [(0x04 : Byte) ++ BitVec.ofInt 32 v]) ∧
    (v < -(2 ^ 31) ∨ 2 ^ 32 - 1 < v →
      assembleOperation "COMPT".toList [text] = none ∧
      assembleOperation "COMPP".toList [text] = none ∧
      assembleOperation "COMPH".toList [text] = none)) ∧
  (∀ idx : Byte, ∀ r, regOfIndex idx = some r →
    assembleOperation "RDREG".toList [(regName r).toList] = some [(0x05 : Byte) ++ (0 : BitVec 24) ++ idx]) ∧
  (∀ (text : List Char) (n : Nat), parseNatural text = some n →
    (n ≤ 255 →
      assembleOperation "RDREG".toList [text] = some [(0x05 : Byte) ++ ((0 : BitVec 24) ++ BitVec.ofNat 8 n)]) ∧
    (255 < n → assembleOperation "RDREG".toList [text] = none)) ∧
  assembleOperation "LDCAL".toList [] = some [0x0100000000] ∧
  (∀ (a b c : List Char) (t p h : Int), parseInteger a = some t → parseInteger b = some p → parseInteger c = some h →
    (-(2 ^ 31) ≤ t ∧ t ≤ 2 ^ 32 - 1) → (-(2 ^ 31) ≤ p ∧ p ≤ 2 ^ 32 - 1) → (-(2 ^ 31) ≤ h ∧ h ≤ 2 ^ 32 - 1) →
      assembleOperation "COMPALL".toList [a, b, c] =
        some [(0x02 : Byte) ++ BitVec.ofInt 32 t, (0x03 : Byte) ++ BitVec.ofInt 32 p,
          (0x04 : Byte) ++ BitVec.ofInt 32 h])

/-! ### No writes -/

/-- No command writes the sensor register space: a write on the bus after a command, or after any step, was there
before (the bus is the model's log of transactions, log entry 7). -/
def Obligations.NoCommandWritesTheSensor : Prop :=
  (∀ (i : Instr) (s t : State), exec i s = .next t → ∀ a v, .memWrite a v ∈ t.bus → .memWrite a v ∈ s.bus) ∧
  (∀ s t : State, step s = .next t → ∀ a v, .memWrite a v ∈ t.bus → .memWrite a v ∈ s.bus)
end

