-- ==== Sys2Proof/Laws/Arith.lean ====
section
/-! SUPPORT. Lemmas about the arithmetic primitives of 00_scope.md R12: what each answers, its range, and its reading as a fixed-width word operation. -/

namespace Sys2Proof.Machine

/-- Narrowing is reading the low bits as a signed word. -/
theorem toInt_ofInt_eq_wrap (n : Nat) (x : Int) : (BitVec.ofInt n x).toInt = wrap n x := BitVec.toInt_ofInt x

theorem wrap_toInt {n : Nat} (x : BitVec n) : wrap n x.toInt = x.toInt := by
  simp [wrap]

/-- `wrap` answers the value itself when the value fits. -/
theorem wrap_of_fits {n : Nat} {x : Int} (lo : -(2 ^ n) ≤ 2 * x) (hi : 2 * x < 2 ^ n) : wrap n x = x := by
  unfold wrap
  apply Int.bmod_eq_of_le_mul_two
  · push_cast; omega
  · push_cast; omega

/-- `wrap` is congruent to its argument. -/
theorem wrap_emod (n : Nat) (x : Int) : wrap n x % 2 ^ n = x % 2 ^ n := by
  have h := Int.bmod_emod (x := x) (m := 2 ^ n)
  push_cast at h
  exact h

/-- `wrap` answers a value of `sN`. -/
theorem wrap_bounds {n : Nat} (x : Int) : -(2 ^ (n - 1)) ≤ wrap n x ∧ wrap n x < 2 ^ (n - 1) := by
  rw [← toInt_ofInt_eq_wrap]
  exact ⟨BitVec.le_toInt _, BitVec.toInt_lt⟩

theorem wrap32_bounds (x : Int) : -2147483648 ≤ wrap 32 x ∧ wrap 32 x ≤ 2147483647 := by
  have h := wrap_bounds (n := 32) x
  norm_num at h
  omega

theorem wrap64_bounds (x : Int) :
    -9223372036854775808 ≤ wrap 64 x ∧ wrap 64 x ≤ 9223372036854775807 := by
  have h := wrap_bounds (n := 64) x
  norm_num at h
  omega

/-- An arithmetic shift is the word's own arithmetic shift. -/
theorem asr_toInt {n : Nat} (x : BitVec n) (k : Nat) : asr x.toInt k = (x.sshiftRight k).toInt := by
  rw [BitVec.toInt_sshiftRight, Int.shiftRight_eq_div_pow, asr]
  push_cast
  rfl

theorem add_toInt {n : Nat} (x y : BitVec n) : add n x.toInt y.toInt = (x + y).toInt := by
  simp [add, wrap]

theorem sub_toInt {n : Nat} (x y : BitVec n) : sub n x.toInt y.toInt = (x - y).toInt := by
  simp [sub, wrap]

theorem mul_toInt {n : Nat} (x y : BitVec n) : mul n x.toInt y.toInt = (x * y).toInt := by
  simp [mul, wrap]

/-- A left shift within the width is the word's own left shift. -/
theorem shl_toInt {n : Nat} (x : BitVec n) (k : Nat) : shl n x.toInt k = (x <<< k).toInt := by
  rw [shl, ← toInt_ofInt_eq_wrap, BitVec.toInt_inj, BitVec.shiftLeft_eq_mul_twoPow, BitVec.ofInt_mul,
    BitVec.ofInt_toInt]
  congr 1
  rw [← BitVec.toNat_inj, BitVec.toNat_twoPow]
  norm_cast

/-- The division is the word's own signed division. -/
theorem sdiv64_toInt (x y : BitVec 64) : sdiv64 x.toInt y.toInt = (x.sdiv y).toInt := by
  rw [sdiv64, wrap, BitVec.toInt_sdiv]

/-- `sext` reads the low bits of a natural number as a signed word. -/
theorem sext_toNat {n : Nat} (hn : 0 < n) (x : BitVec n) : sext n x.toNat = x.toInt := by
  have hx := x.isLt
  have hmod : ((x.toNat : Int) % 2 ^ n) = x.toNat := by
    rw [Int.emod_eq_of_lt (by omega) (by exact_mod_cast hx)]
  have h2 : (2 : Int) ^ n = 2 * 2 ^ (n - 1) := by
    obtain ⟨m, rfl⟩ := Nat.exists_eq_succ_of_ne_zero (Nat.pos_iff_ne_zero.mp hn)
    simp [pow_succ, mul_comm]
  rw [sext, hmod, BitVec.toInt_eq_toNat_cond]
  have h3 : (2 : Nat) ^ n = 2 * 2 ^ (n - 1) := by exact_mod_cast h2
  push_cast
  have hlt : ((x.toNat : Int) < 2 ^ (n - 1)) ↔ 2 * x.toNat < 2 ^ n := by
    rw [h3]
    constructor
    · intro h
      have : x.toNat < 2 ^ (n - 1) := by exact_mod_cast h
      omega
    · intro h
      have : x.toNat < 2 ^ (n - 1) := by omega
      exact_mod_cast this
  simp only [hlt]

/-- Storing a 32-bit signed value and reading it back. -/
theorem u32_toInt32 (x : Word) : u32 x.toInt = x := by simp [u32]

/-- Narrowing a 64-bit word keeps its low 32 bits. -/
theorem u32_toInt64 (x : BitVec 64) : u32 x.toInt = x.setWidth 32 := by
  apply BitVec.eq_of_toNat_eq
  have := x.isLt
  rw [u32, BitVec.toNat_ofInt, BitVec.toNat_setWidth, BitVec.toInt_eq_toNat_cond]
  split <;> omega

/-- A stored value that fits 32 bits reads back as itself. -/
theorem u32_toInt_of_fits {x : Int} (lo : -2147483648 ≤ x) (hi : x ≤ 2147483647) : (u32 x).toInt = x := by
  rw [u32, toInt_ofInt_eq_wrap]
  exact wrap_of_fits (by omega) (by omega)

/-- A stored natural value that fits 32 bits reads back as itself. -/
theorem u32_toNat_of_fits {x : Int} (lo : 0 ≤ x) (hi : x < 4294967296) : ((u32 x).toNat : Int) = x := by
  rw [u32, BitVec.toNat_ofInt]
  omega

end Sys2Proof.Machine
end

