-- ==== Sys2Proof/Laws/Memory.lean ====
section
/-! SUPPORT. The sensor register space: reading after writing, and that every memory operation keeps the canonical form. -/

namespace Sys2Proof.Machine

theorem lookupByte_cons (k : Nat) (v : Byte) (rest : Memory) (a : Nat) :
    lookupByte ((k, v) :: rest) a = if k = a then v else lookupByte rest a := rfl

/-- Raising the lower bound keeps the canonical form of what stands above it. -/
theorem wfFrom_mono {lo lo' : Nat} (h : lo ≤ lo') : ∀ {m : Memory}, Memory.wfFrom lo' m = true → Memory.wfFrom lo m = true
  | [], _ => rfl
  | (_, _) :: _, hm => by
    simp only [Memory.wfFrom, Bool.and_eq_true, decide_eq_true_eq] at hm ⊢
    exact ⟨⟨⟨by omega, hm.1.1.2⟩, hm.1.2⟩, hm.2⟩

/-- A canonical memory lists nothing below its lower bound. -/
theorem lookupByte_below {lo a : Nat} (h : a < lo) :
    ∀ {m : Memory}, Memory.wfFrom lo m = true → lookupByte m a = unlistedByte
  | [], _ => rfl
  | (k, _) :: _, hm => by
    simp only [Memory.wfFrom, Bool.and_eq_true, decide_eq_true_eq] at hm
    rw [lookupByte_cons, if_neg (by omega)]
    exact lookupByte_below (by omega) hm.2

/-- Inserting a byte keeps the canonical form. -/
theorem insertByte_wfFrom {lo a : Nat} (v : Byte) (hlo : lo ≤ a) (ha : a < 256) :
    ∀ {m : Memory}, Memory.wfFrom lo m = true → Memory.wfFrom lo (insertByte m a v) = true
  | [], _ => by
    unfold insertByte
    split
    · rfl
    · simp [Memory.wfFrom, *]
  | (k, w) :: rest, hm => by
    have hm' := hm
    simp only [Memory.wfFrom, Bool.and_eq_true, decide_eq_true_eq] at hm'
    obtain ⟨⟨⟨hk, hk'⟩, hw⟩, hrest⟩ := hm'
    unfold insertByte
    split_ifs with h1 h2 h3 h4
    · exact hm
    · simp only [Memory.wfFrom, Bool.and_eq_true, decide_eq_true_eq]
      exact ⟨⟨⟨hlo, ha⟩, h2⟩, ⟨⟨by omega, hk'⟩, hw⟩, hrest⟩
    · exact wfFrom_mono (by omega) hrest
    · simp only [Memory.wfFrom, Bool.and_eq_true, decide_eq_true_eq]
      exact ⟨⟨⟨hlo, ha⟩, h4⟩, by subst h3; exact hrest⟩
    · simp only [Memory.wfFrom, Bool.and_eq_true, decide_eq_true_eq]
      exact ⟨⟨⟨hk, hk'⟩, hw⟩, insertByte_wfFrom v (by omega) ha hrest⟩

/-- What every address reads as after an insertion. -/
theorem lookupByte_insertByte {lo a : Nat} (v : Byte) (b : Nat) :
    ∀ {m : Memory}, Memory.wfFrom lo m = true → lookupByte (insertByte m a v) b = if a = b then v else lookupByte m b
  | [], _ => by
    unfold insertByte
    by_cases hv : v = unlistedByte <;> by_cases hab : a = b <;> simp [lookupByte, hv, hab]
  | (k, w) :: rest, hm => by
    have hm' := hm
    simp only [Memory.wfFrom, Bool.and_eq_true, decide_eq_true_eq] at hm'
    obtain ⟨⟨⟨hk, hk'⟩, hw⟩, hrest⟩ := hm'
    have hbelow : ∀ {x}, x < k + 1 → lookupByte rest x = unlistedByte := fun hx => lookupByte_below hx hrest
    rcases Nat.lt_trichotomy a k with h | h | h
    · by_cases hv : v = unlistedByte <;> by_cases hab : a = b
      · subst hab
        simp [insertByte, h, hv, lookupByte, Nat.ne_of_gt h, hbelow (Nat.lt_succ_of_lt h)]
      · simp [insertByte, h, hv, hab]
      · subst hab
        simp [insertByte, h, hv, lookupByte]
      · simp [insertByte, h, hv, hab, lookupByte]
    · subst h
      by_cases hv : v = unlistedByte <;> by_cases hab : a = b
      · subst hab
        simp [insertByte, hv, hbelow (Nat.lt_succ_self a)]
      · simp [insertByte, hv, hab, lookupByte]
      · simp [insertByte, hv, hab, lookupByte]
      · simp [insertByte, hv, hab, lookupByte]
    · have hne : ¬a < k := by omega
      have hne' : a ≠ k := by omega
      by_cases hkb : k = b
      · subst hkb
        simp [insertByte, hne, hne', lookupByte]
      · simp [insertByte, hne, hne', lookupByte, hkb, lookupByte_insertByte v b hrest]

/-- A write keeps the canonical form. -/
theorem writeByte_wf {m : Memory} (h : Memory.wf m = true) (a : Addr) (v : Byte) : Memory.wf (writeByte m a v) = true :=
  insertByte_wfFrom v (Nat.zero_le _) a.isLt h

/-- Writing several bytes keeps the canonical form. -/
theorem writeBytes_wf : ∀ (vs : List Byte) {m : Memory} (a : Addr), Memory.wf m = true →
    Memory.wf (writeBytes m a vs) = true
  | [], _, _, h => h
  | v :: vs, _, a, h => writeBytes_wf vs (a + 1) (writeByte_wf h a v)

/-- Read after write: the written address reads the byte written, every other address reads as before. -/
theorem readByte_writeByte {m : Memory} (h : Memory.wf m = true) (a b : Addr) (v : Byte) :
    readByte (writeByte m a v) b = if a = b then v else readByte m b := by
  unfold readByte writeByte
  rw [lookupByte_insertByte v b.toNat h]
  simp only [BitVec.toNat_inj]

/-- The empty memory is canonical. -/
theorem wf_nil : Memory.wf [] = true := rfl

/-- The reset state holds no image, so every image it holds is canonical. -/
theorem reset_memories_wf : ∀ a ∈ State.reset.transport, TransportAnswer.wf a = true := by
  intro a ha
  cases ha

end Sys2Proof.Machine
end

