-- ==== Sys2Proof/Laws/State.lean ====
section
/-! SUPPORT. One lemma per field per named update of the state, so that no later proof unfolds a record update. -/

namespace Sys2Proof.Machine

/-! ### Returning a response -/

section Respond
variable (st : Status) (v : Word) (s : State)

@[simp] theorem respond_coef : (respond st v s).coef = s.coef := rfl
@[simp] theorem respond_tFine : (respond st v s).tFine = s.tFine := rfl
@[simp] theorem respond_tOut : (respond st v s).tOut = s.tOut := rfl
@[simp] theorem respond_pOut : (respond st v s).pOut = s.pOut := rfl
@[simp] theorem respond_hOut : (respond st v s).hOut = s.hOut := rfl
@[simp] theorem respond_calValid : (respond st v s).calValid = s.calValid := rfl
@[simp] theorem respond_tfSet : (respond st v s).tfSet = s.tfSet := rfl
@[simp] theorem respond_inputs : (respond st v s).inputs = s.inputs := rfl
@[simp] theorem respond_transport : (respond st v s).transport = s.transport := rfl
@[simp] theorem respond_bus : (respond st v s).bus = s.bus := rfl
@[simp] theorem respond_responses : (respond st v s).responses = responseWord st v :: s.responses := rfl
@[simp] theorem respond_freeIdx : (respond st v s).freeIdx = s.freeIdx := rfl

end Respond

section Finish
variable (v : Word) (s : State)

@[simp] theorem finish_coef : (finish v s).coef = s.coef := rfl
@[simp] theorem finish_tFine : (finish v s).tFine = s.tFine := rfl
@[simp] theorem finish_tOut : (finish v s).tOut = s.tOut := rfl
@[simp] theorem finish_pOut : (finish v s).pOut = s.pOut := rfl
@[simp] theorem finish_hOut : (finish v s).hOut = s.hOut := rfl
@[simp] theorem finish_calValid : (finish v s).calValid = s.calValid := rfl
@[simp] theorem finish_tfSet : (finish v s).tfSet = s.tfSet := rfl
@[simp] theorem finish_inputs : (finish v s).inputs = s.inputs := rfl
@[simp] theorem finish_transport : (finish v s).transport = s.transport := rfl
@[simp] theorem finish_bus : (finish v s).bus = s.bus := rfl
@[simp] theorem finish_responses : (finish v s).responses = responseWord .ok v :: s.responses := rfl
@[simp] theorem finish_freeIdx : (finish v s).freeIdx = s.freeIdx := rfl

end Finish

/-! ### Raising a fault -/

section Raise
variable (f : CommandFault) (s : State)

@[simp] theorem raise_coef : (raise f s).coef = s.coef := rfl
@[simp] theorem raise_tFine : (raise f s).tFine = s.tFine := rfl
@[simp] theorem raise_tOut : (raise f s).tOut = s.tOut := rfl
@[simp] theorem raise_pOut : (raise f s).pOut = s.pOut := rfl
@[simp] theorem raise_hOut : (raise f s).hOut = s.hOut := rfl
@[simp] theorem raise_calValid : (raise f s).calValid = s.calValid := rfl
@[simp] theorem raise_tfSet : (raise f s).tfSet = s.tfSet := rfl
@[simp] theorem raise_inputs : (raise f s).inputs = s.inputs := rfl
@[simp] theorem raise_transport : (raise f s).transport = s.transport := rfl
@[simp] theorem raise_bus : (raise f s).bus = s.bus := rfl
@[simp] theorem raise_responses : (raise f s).responses = responseWord f.status 0 :: s.responses := rfl
@[simp] theorem raise_freeIdx : (raise f s).freeIdx = s.freeIdx := rfl

end Raise

/-! ### The calibration flag -/

section CalValid
variable (b : Bool) (s : State)

@[simp] theorem setCalValid_coef : (setCalValid b s).coef = s.coef := rfl
@[simp] theorem setCalValid_tFine : (setCalValid b s).tFine = s.tFine := rfl
@[simp] theorem setCalValid_tOut : (setCalValid b s).tOut = s.tOut := rfl
@[simp] theorem setCalValid_pOut : (setCalValid b s).pOut = s.pOut := rfl
@[simp] theorem setCalValid_hOut : (setCalValid b s).hOut = s.hOut := rfl
@[simp] theorem setCalValid_calValid : (setCalValid b s).calValid = b := rfl
@[simp] theorem setCalValid_tfSet : (setCalValid b s).tfSet = s.tfSet := rfl
@[simp] theorem setCalValid_inputs : (setCalValid b s).inputs = s.inputs := rfl
@[simp] theorem setCalValid_transport : (setCalValid b s).transport = s.transport := rfl
@[simp] theorem setCalValid_bus : (setCalValid b s).bus = s.bus := rfl
@[simp] theorem setCalValid_responses : (setCalValid b s).responses = s.responses := rfl
@[simp] theorem setCalValid_freeIdx : (setCalValid b s).freeIdx = s.freeIdx := rfl

end CalValid

/-! ### Reset -/

section Reset
variable (s : State)

@[simp] theorem resetBlock_coef : (resetBlock s).coef = Coefs.zero := rfl
@[simp] theorem resetBlock_tFine : (resetBlock s).tFine = 0 := rfl
@[simp] theorem resetBlock_tOut : (resetBlock s).tOut = 0 := rfl
@[simp] theorem resetBlock_pOut : (resetBlock s).pOut = 0 := rfl
@[simp] theorem resetBlock_hOut : (resetBlock s).hOut = 0 := rfl
@[simp] theorem resetBlock_calValid : (resetBlock s).calValid = false := rfl
@[simp] theorem resetBlock_tfSet : (resetBlock s).tfSet = false := rfl
@[simp] theorem resetBlock_inputs : (resetBlock s).inputs = s.inputs := rfl
@[simp] theorem resetBlock_transport : (resetBlock s).transport = s.transport := rfl
@[simp] theorem resetBlock_bus : (resetBlock s).bus = s.bus := rfl
@[simp] theorem resetBlock_responses : (resetBlock s).responses = s.responses := rfl
@[simp] theorem resetBlock_freeIdx : (resetBlock s).freeIdx = s.freeIdx := rfl

end Reset

/-! ### The checks of the two flags, said once each -/

theorem requireCalibration_true {s body : State} (h : s.calValid = true) : requireCalibration s body = body := by
  simp [requireCalibration, h]

theorem requireCalibration_false {s body : State} (h : s.calValid = false) :
    requireCalibration s body = raise .uninitializedError s := by
  simp [requireCalibration, h]

theorem requireFineTemperature_true {s body : State} (h : s.tfSet = true) :
    requireFineTemperature s body = body := by
  simp [requireFineTemperature, h]

theorem requireFineTemperature_false {s body : State} (h : s.tfSet = false) :
    requireFineTemperature s body = raise .uninitializedError s := by
  simp [requireFineTemperature, h]

/-! ### Response words: status in the high byte, value in the low 32 bits -/

theorem responseWord_toNat (st : Status) (v : Word) :
    (responseWord st v).toNat = st.code.toNat * 2 ^ 32 + v.toNat := by
  have hv := v.isLt
  rw [responseWord, BitVec.toNat_append, Nat.shiftLeft_eq, Nat.mul_comm, ← Nat.two_pow_add_eq_or_of_lt hv]

theorem responseWord_ok_toNat (v : Word) : (responseWord .ok v).toNat = v.toNat := by
  simp [responseWord_toNat, Status.code]

/-- A fault's response word carries its code and value 0 (60_exceptions.md R186). -/
theorem responseWord_fault (f : CommandFault) :
    responseWord f.status 0 = 0x0100000000 ∨ responseWord f.status 0 = 0x0200000000 ∨
      responseWord f.status 0 = 0x0300000000 := by
  cases f <;> decide

/-- The status of a response word is read back from its high byte, its value from the low 32 bits. -/
theorem responseWord_value (st : Status) (v : Word) : (responseWord st v).extractLsb' 0 32 = v := by
  rw [responseWord]
  exact BitVec.extractLsb'_append_eq_right

end Sys2Proof.Machine
end

