-- ==== Sys2Proof/Laws/Transport.lean ====
section
/-! SUPPORT. The read primitive: everything one transaction can do, said once (20_memory.md R53 to R55). -/

namespace Sys2Proof.Machine

section MemRead
variable (addr : Addr) (n : Nat) (s : State)

@[simp] theorem memRead_answer : (memRead addr n s).1 = nextAnswer s.transport s.freeIdx addr n := rfl
@[simp] theorem memRead_coef : (memRead addr n s).2.coef = s.coef := rfl
@[simp] theorem memRead_tFine : (memRead addr n s).2.tFine = s.tFine := rfl
@[simp] theorem memRead_tOut : (memRead addr n s).2.tOut = s.tOut := rfl
@[simp] theorem memRead_pOut : (memRead addr n s).2.pOut = s.pOut := rfl
@[simp] theorem memRead_hOut : (memRead addr n s).2.hOut = s.hOut := rfl
@[simp] theorem memRead_calValid : (memRead addr n s).2.calValid = s.calValid := rfl
@[simp] theorem memRead_tfSet : (memRead addr n s).2.tfSet = s.tfSet := rfl
@[simp] theorem memRead_inputs : (memRead addr n s).2.inputs = s.inputs := rfl
@[simp] theorem memRead_transport : (memRead addr n s).2.transport = s.transport.tail := rfl
@[simp] theorem memRead_bus : (memRead addr n s).2.bus = .memRead addr n :: s.bus := rfl
@[simp] theorem memRead_responses : (memRead addr n s).2.responses = s.responses := rfl
@[simp] theorem memRead_freeIdx : (memRead addr n s).2.freeIdx = nextFreeIdx s.transport s.freeIdx := rfl

end MemRead

section Answers
variable (k : Nat) (addr : Addr) (n : Nat) (rest : List TransportAnswer) (m : Memory)

@[simp] theorem nextAnswer_image : nextAnswer (.image m :: rest) k addr n = some (burst m addr n) := rfl
@[simp] theorem nextAnswer_failed : nextAnswer (.failed :: rest) k addr n = none := rfl
@[simp] theorem nextAnswer_nil : nextAnswer [] k addr n = freeAnswer k addr n := rfl
@[simp] theorem nextFreeIdx_cons (a : TransportAnswer) : nextFreeIdx (a :: rest) k = k := rfl
@[simp] theorem nextFreeIdx_nil : nextFreeIdx [] k = k + 1 := rfl

end Answers

/-- A free answer has the length the transaction asks for. -/
theorem freeAnswer_length {k : Nat} {addr : Addr} {n : Nat} {bs : List Byte} (h : freeAnswer k addr n = some bs) :
    bs.length = n := by
  unfold freeAnswer at h
  split at h
  · cases h; simp
  · cases h

/-- Byte `i` of a burst is the content of address `addr + i`. -/
theorem burst_getD (m : Memory) (addr : Addr) (n i : Nat) (h : i < n) :
    (burst m addr n).getD i 0 = readByte m (addr + BitVec.ofNat 8 i) := by
  simp [burst, List.getD, h]

/-- `B[a]` of a burst is what the image holds at `a`, for every address inside the burst. -/
theorem imageByte_burst (m : Memory) (base : Addr) (n : Nat) (a : Addr) (h : (a - base).toNat < n) :
    imageByte base (burst m base n) a = readByte m a := by
  rw [imageByte, burst_getD _ _ _ _ h, BitVec.ofNat_toNat, BitVec.setWidth_eq, add_comm, BitVec.sub_add_cancel]

end Sys2Proof.Machine
end

