-- ==== Sys2Proof/Laws/Load.lean ====
section
/-! SUPPORT. The body of `LDCAL`: everything it can do, said once, as the four ways it can end (40_calibration_unpack.md R119, R120). -/

namespace Sys2Proof.Machine

/-- The answers to the three transactions of a load, each from the queue the ones before it left. -/
def burstAnswer1 (s : State) : Option (List Byte) := nextAnswer s.transport s.freeIdx 0x88 24

/-- The answer to the second transaction. -/
def burstAnswer2 (s : State) : Option (List Byte) :=
  nextAnswer s.transport.tail (nextFreeIdx s.transport s.freeIdx) 0xA1 1

/-- The answer to the third transaction. -/
def burstAnswer3 (s : State) : Option (List Byte) :=
  nextAnswer s.transport.tail.tail
    (nextFreeIdx s.transport.tail (nextFreeIdx s.transport s.freeIdx)) 0xE1 7

/-- Burst 1 fails: no coefficient changes. -/
theorem loadCalibration_fail1 {p : Params} {s : State} (h : burstAnswer1 s = none) :
    loadCalibration p s = { s with
      calValid := false
      bus := .memRead 0x88 24 :: s.bus
      transport := s.transport.tail
      freeIdx := nextFreeIdx s.transport s.freeIdx
      responses := responseWord .transport 0 :: s.responses } := by
  simp only [burstAnswer1] at h
  simp only [loadCalibration, memRead, setCalValid, h]
  rfl

/-- Burst 2 fails: `C[0..11]` are new. -/
theorem loadCalibration_fail2 {p : Params} {s : State} {b1 : List Byte} (h1 : burstAnswer1 s = some b1)
    (h2 : burstAnswer2 s = none) :
    loadCalibration p s = { s with
      coef := commitBurst1 p (imageByte 0x88 b1) s.coef
      calValid := false
      bus := .memRead 0xA1 1 :: .memRead 0x88 24 :: s.bus
      transport := s.transport.tail.tail
      freeIdx := nextFreeIdx s.transport.tail (nextFreeIdx s.transport s.freeIdx)
      responses := responseWord .transport 0 :: s.responses } := by
  simp only [burstAnswer1] at h1
  simp only [burstAnswer2] at h2
  simp only [loadCalibration, memRead, setCalValid, h1, h2]
  rfl

/-- Burst 3 fails: `C[0..12]` are new. -/
theorem loadCalibration_fail3 {p : Params} {s : State} {b1 b2 : List Byte} (h1 : burstAnswer1 s = some b1)
    (h2 : burstAnswer2 s = some b2) (h3 : burstAnswer3 s = none) :
    loadCalibration p s = { s with
      coef := commitBurst2 (imageByte 0xA1 b2) (commitBurst1 p (imageByte 0x88 b1) s.coef)
      calValid := false
      bus := .memRead 0xE1 7 :: .memRead 0xA1 1 :: .memRead 0x88 24 :: s.bus
      transport := s.transport.tail.tail.tail
      freeIdx := nextFreeIdx s.transport.tail.tail
        (nextFreeIdx s.transport.tail (nextFreeIdx s.transport s.freeIdx))
      responses := responseWord .transport 0 :: s.responses } := by
  simp only [burstAnswer1] at h1
  simp only [burstAnswer2] at h2
  simp only [burstAnswer3] at h3
  simp only [loadCalibration, memRead, setCalValid, h1, h2, h3]
  rfl

/-- All bursts succeed: every coefficient is new and `CAL_VALID` is 1. -/
theorem loadCalibration_ok {p : Params} {s : State} {b1 b2 b3 : List Byte} (h1 : burstAnswer1 s = some b1)
    (h2 : burstAnswer2 s = some b2) (h3 : burstAnswer3 s = some b3) :
    loadCalibration p s = { s with
      coef := commitBurst3 p (imageByte 0xE1 b3)
        (commitBurst2 (imageByte 0xA1 b2) (commitBurst1 p (imageByte 0x88 b1) s.coef))
      calValid := true
      bus := .memRead 0xE1 7 :: .memRead 0xA1 1 :: .memRead 0x88 24 :: s.bus
      transport := s.transport.tail.tail.tail
      freeIdx := nextFreeIdx s.transport.tail.tail
        (nextFreeIdx s.transport.tail (nextFreeIdx s.transport s.freeIdx))
      responses := responseWord .ok 0 :: s.responses } := by
  simp only [burstAnswer1] at h1
  simp only [burstAnswer2] at h2
  simp only [burstAnswer3] at h3
  simp only [loadCalibration, memRead, setCalValid, h1, h2, h3]
  rfl

/-- The four ways a load ends. -/
theorem loadCalibration_cases (s : State) :
    burstAnswer1 s = none ∨
    (∃ b1, burstAnswer1 s = some b1 ∧ burstAnswer2 s = none) ∨
    (∃ b1 b2, burstAnswer1 s = some b1 ∧ burstAnswer2 s = some b2 ∧ burstAnswer3 s = none) ∨
    (∃ b1 b2 b3, burstAnswer1 s = some b1 ∧ burstAnswer2 s = some b2 ∧ burstAnswer3 s = some b3) := by
  rcases h1 : burstAnswer1 s with _ | b1
  · exact .inl rfl
  rcases h2 : burstAnswer2 s with _ | b2
  · exact .inr (.inl ⟨b1, rfl, rfl⟩)
  rcases h3 : burstAnswer3 s with _ | b3
  · exact .inr (.inr (.inl ⟨b1, b2, rfl, rfl, rfl⟩))
  · exact .inr (.inr (.inr ⟨b1, b2, b3, rfl, rfl, rfl⟩))

/-- A full load leaves nothing of the old coefficient file. -/
theorem committed_overwrites (p : Params) (B1 B2 B3 : Addr → Byte) (c c' : Coefs) :
    commitBurst3 p B3 (commitBurst2 B2 (commitBurst1 p B1 c)) =
      commitBurst3 p B3 (commitBurst2 B2 (commitBurst1 p B1 c')) := rfl

/-- `LDCAL` runs its body whenever no transaction it issues hangs. -/
theorem execLdcalWith_of_answered {p : Params} {s : State} (h : transportHangs 3 s.transport = false) :
    execLdcalWith p s = .next (loadCalibration p s) := by
  simp [execLdcalWith, h]

/-- A next state of `LDCAL` is its body's. -/
theorem execLdcalWith_next {p : Params} {s t : State} (h : execLdcalWith p s = .next t) :
    transportHangs 3 s.transport = false ∧ t = loadCalibration p s := by
  unfold execLdcalWith at h
  split at h
  · cases h
  · rename_i hh
    exact ⟨by simpa using hh, by cases h; rfl⟩

/-- Without an entry that is never answered, no transaction hangs. -/
theorem transportHangs_of_not_mem : ∀ (n : Nat) {q : List TransportAnswer}, .never ∉ q → transportHangs n q = false
  | 0, _, _ => rfl
  | _ + 1, [], _ => rfl
  | n + 1, .image _ :: q, h => transportHangs_of_not_mem n (q := q) (fun hm => h (List.mem_cons_of_mem _ hm))
  | _ + 1, .failed :: _, _ => rfl
  | _ + 1, .never :: _, h => absurd List.mem_cons_self h

end Sys2Proof.Machine
end

