-- ==== Sys2Proof/Laws/Commands.lean ====
section
/-! SUPPORT. What each command answers, by cases on the flags, and what one step can do. -/

namespace Sys2Proof.Machine

/-- The new `T_FINE` of a `COMPT` in a state. -/
def State.newFine (s : State) (imm : Word) : Int :=
  fineTemperature (s.coef.value .t1) (s.coef.value .t2) (s.coef.value .t3) (immOperand imm)

theorem execCompt_calibrated {s : State} (h : s.calValid = true) (imm : Word) :
    execCompt imm s = .next (commitTemperature (s.newFine imm) s) := by
  rw [execCompt, requireCalibration_true h]
  rfl

theorem execCompt_uncalibrated {s : State} (h : s.calValid = false) (imm : Word) :
    execCompt imm s = .next (raise .uninitializedError s) := by
  rw [execCompt, requireCalibration_false h]

theorem execCompp_ready {s : State} (h : s.calValid = true) (h' : s.tfSet = true) (imm : Word) :
    execCompp imm s = .next (commitPressure (pressure s.coef s.fine (immOperand imm)) s) := by
  rw [execCompp, requireCalibration_true h, requireFineTemperature_true h']

theorem execCompp_unready {s : State} (h : s.calValid = false ∨ s.tfSet = false) (imm : Word) :
    execCompp imm s = .next (raise .uninitializedError s) := by
  rw [execCompp]
  rcases h with h | h
  · rw [requireCalibration_false h]
  · rw [requireFineTemperature_false h]
    unfold requireCalibration
    split <;> rfl

theorem execComph_ready {s : State} (h : s.calValid = true) (h' : s.tfSet = true) (imm : Word) :
    execComph imm s = .next (commitHumidity (humidity s.coef s.fine (immOperand imm)) s) := by
  rw [execComph, requireCalibration_true h, requireFineTemperature_true h']

theorem execComph_unready {s : State} (h : s.calValid = false ∨ s.tfSet = false) (imm : Word) :
    execComph imm s = .next (raise .uninitializedError s) := by
  rw [execComph]
  rcases h with h | h
  · rw [requireCalibration_false h]
  · rw [requireFineTemperature_false h]
    unfold requireCalibration
    split <;> rfl

/-- A register read answers the register, or raises a fault; it changes nothing but the responses. -/
theorem execRdreg_cases (idx : Byte) (s : State) :
    (∃ r, regOfIndex idx = some r ∧ execRdreg idx s = .next (finish (readRegister s r) s)) ∨
    (∃ c, regOfIndex idx = some (.coef c) ∧ s.calValid = false ∧
      execRdreg idx s = .next (raise .uninitializedError s)) ∨
    (regOfIndex idx = none ∧ execRdreg idx s = .next (raise .illegalCommand s)) := by
  unfold execRdreg
  split
  · rename_i r hr
    cases r with
    | coef c =>
      rcases hv : s.calValid with _ | _
      · exact .inr (.inl ⟨c, hr, rfl, by rw [readNamed, requireCalibration_false hv]⟩)
      · exact .inl ⟨_, hr, by rw [readNamed, requireCalibration_true hv]⟩
    | tFine => exact .inl ⟨_, hr, rfl⟩
    | tOut => exact .inl ⟨_, hr, rfl⟩
    | pOut => exact .inl ⟨_, hr, rfl⟩
    | hOut => exact .inl ⟨_, hr, rfl⟩
    | status => exact .inl ⟨_, hr, rfl⟩
  · rename_i hr
    exact .inr (.inr ⟨hr, rfl⟩)

/-- The named updates of `COMPT`, `COMPP` and `COMPH`, field by field. -/
theorem commitTemperature_eq (tf : Int) (s : State) :
    commitTemperature tf s = { s with
      tFine := u32 tf, tfSet := true, tOut := u32 (temperature tf)
      responses := responseWord .ok (u32 (temperature tf)) :: s.responses } := rfl

theorem commitPressure_eq (p : Int) (s : State) :
    commitPressure p s = { s with pOut := u32 p, responses := responseWord .ok (u32 p) :: s.responses } := rfl

theorem commitHumidity_eq (r : Int) (s : State) :
    commitHumidity r s = { s with hOut := u32 r, responses := responseWord .ok (u32 r) :: s.responses } := rfl

/-- Everything one command can do when it answers a next state: raise a fault that changes nothing, or end as its own
rule says. -/
theorem exec_cases {i : Instr} {s t : State} (h : exec i s = .next t) :
    (∃ f, t = raise f s) ∨
    (i = .ldcal ∧ transportHangs 3 s.transport = false ∧ t = loadCalibration Config.params s) ∨
    (∃ imm, i = .compt imm ∧ s.calValid = true ∧ t = commitTemperature (s.newFine imm) s) ∨
    (∃ imm, i = .compp imm ∧ s.calValid = true ∧ s.tfSet = true ∧
      t = commitPressure (pressure s.coef s.fine (immOperand imm)) s) ∨
    (∃ imm, i = .comph imm ∧ s.calValid = true ∧ s.tfSet = true ∧
      t = commitHumidity (humidity s.coef s.fine (immOperand imm)) s) ∨
    (∃ idx r, i = .rdreg idx ∧ regOfIndex idx = some r ∧ t = finish (readRegister s r) s) := by
  cases i with
  | ldcal => exact .inr (.inl ⟨rfl, execLdcalWith_next h⟩)
  | compt imm =>
    change execCompt imm s = _ at h
    rcases hv : s.calValid with _ | _
    · rw [execCompt_uncalibrated hv] at h
      cases h; exact .inl ⟨_, rfl⟩
    · rw [execCompt_calibrated hv] at h
      cases h; exact .inr (.inr (.inl ⟨imm, rfl, rfl, rfl⟩))
  | compp imm =>
    change execCompp imm s = _ at h
    by_cases hv : s.calValid = true ∧ s.tfSet = true
    · rw [execCompp_ready hv.1 hv.2] at h
      cases h; exact .inr (.inr (.inr (.inl ⟨imm, rfl, hv.1, hv.2, rfl⟩)))
    · rw [execCompp_unready (by simpa [Classical.or_iff_not_imp_left] using hv)] at h
      cases h; exact .inl ⟨_, rfl⟩
  | comph imm =>
    change execComph imm s = _ at h
    by_cases hv : s.calValid = true ∧ s.tfSet = true
    · rw [execComph_ready hv.1 hv.2] at h
      cases h; exact .inr (.inr (.inr (.inr (.inl ⟨imm, rfl, hv.1, hv.2, rfl⟩))))
    · rw [execComph_unready (by simpa [Classical.or_iff_not_imp_left] using hv)] at h
      cases h; exact .inl ⟨_, rfl⟩
  | rdreg idx =>
    change execRdreg idx s = _ at h
    rcases execRdreg_cases idx s with ⟨r, hr, e⟩ | ⟨c, _, _, e⟩ | ⟨_, e⟩
    · rw [e] at h
      cases h; exact .inr (.inr (.inr (.inr (.inr ⟨idx, r, rfl, hr, rfl⟩))))
    · rw [e] at h
      cases h; exact .inl ⟨_, rfl⟩
    · rw [e] at h
      cases h; exact .inl ⟨_, rfl⟩

/-- Everything one step can do when it answers a next state. -/
theorem step_cases {s t : State} (h : step s = .next t) :
    (s.inputs = [] ∧ t = s) ∨
    (∃ rest, s.inputs = .reset :: rest ∧ t = resetBlock { s with inputs := rest }) ∨
    (∃ w rest e, s.inputs = .command w :: rest ∧ decode w = .error e ∧
      t = raise .illegalCommand { s with inputs := rest }) ∨
    (∃ w rest i, s.inputs = .command w :: rest ∧ decode w = .ok i ∧ exec i { s with inputs := rest } = .next t) := by
  unfold step takeInput at h
  split at h
  · rename_i hi
    cases h; exact .inl ⟨hi, rfl⟩
  · rename_i w rest hi
    unfold runCommand at h
    split at h
    · rename_i i hd
      exact .inr (.inr (.inr ⟨w, rest, i, hi, hd, h⟩))
    · rename_i e hd
      cases h; exact .inr (.inr (.inl ⟨w, rest, e, hi, hd, rfl⟩))
  · rename_i rest hi
    cases h; exact .inr (.inl ⟨rest, hi, rfl⟩)
  · cases h

end Sys2Proof.Machine
end

