-- ==== Sys2Proof/Laws/Decode.lean ====
section
/-! SUPPORT. The fields of a command word and of an encoded command (30_encoding.md R80, R81). -/

namespace Sys2Proof

/-- The opcode field of an encoded command. -/
@[simp] theorem encode_op (i : Instr) : Command.op (encode i) = i.opcode := BitVec.extractLsb'_append_eq_left

/-- The operand field of an encoded command. -/
@[simp] theorem encode_arg (i : Instr) : Command.arg (encode i) = i.operandField := BitVec.extractLsb'_append_eq_right

/-- A command word is its opcode followed by its operand field. -/
theorem op_append_arg (w : Command) : w.op ++ w.arg = w :=
  (BitVec.extractLsb'_append_extractLsb'_eq_extractLsb' (x := w) (by omega)).trans (by simp)

/-- The index field of a format R operand. -/
@[simp] theorem formatR_index (idx : Byte) : ((0 : BitVec 24) ++ idx).extractLsb' 0 8 = idx :=
  BitVec.extractLsb'_append_eq_right

/-- The must-be-zero field of a format R operand. -/
@[simp] theorem formatR_mustBeZero (idx : Byte) : ((0 : BitVec 24) ++ idx).extractLsb' 8 24 = 0 :=
  BitVec.extractLsb'_append_eq_left

/-- An operand field is its upper 24 bits followed by its low byte. -/
theorem arg_split (a : Word) : a.extractLsb' 8 24 ++ a.extractLsb' 0 8 = a :=
  (BitVec.extractLsb'_append_extractLsb'_eq_extractLsb' (x := a) (by omega)).trans (by simp)

/-- `op` is the word divided by `2^32`. -/
theorem op_toNat (w : Command) : w.op.toNat = w.toNat / 2 ^ 32 := by
  have h := w.isLt
  rw [Command.op, BitVec.extractLsb'_toNat, Nat.shiftRight_eq_div_pow]
  omega

/-- `arg` is the word modulo `2^32`. -/
theorem arg_toNat (w : Command) : w.arg.toNat = w.toNat % 2 ^ 32 := by
  rw [Command.arg, BitVec.extractLsb'_toNat, Nat.shiftRight_zero]

end Sys2Proof
end

