-- ==== Sys2Proof/Laws/Environment.lean ====
section
/-! SUPPORT. The environment's answers as the statements speak of them (`EnvironmentAnswers`, `BurstsSucceed`), tied once to what the read primitive and a load do. -/

namespace Sys2Proof.Machine

/-- The bytes of `n` consecutive addresses. -/
def bytesFrom (B : Addr → Byte) (addr : Addr) (n : Nat) : List Byte :=
  (List.range n).map fun i => B (addr + BitVec.ofNat 8 i)

@[simp] theorem bytesFrom_length (B : Addr → Byte) (addr : Addr) (n : Nat) : (bytesFrom B addr n).length = n := by
  simp [bytesFrom]

theorem bytesFrom_getElem? (B : Addr → Byte) (addr : Addr) {n i : Nat} (h : i < n) :
    (bytesFrom B addr n)[i]? = some (B (addr + BitVec.ofNat 8 i)) := by
  simp [bytesFrom, h]

/-- `B[a]` of consecutive bytes is the byte of `a`, for every address among them. -/
theorem imageByte_bytesFrom (B : Addr → Byte) (base : Addr) (n : Nat) (a : Addr) (h : (a - base).toNat < n) :
    imageByte base (bytesFrom B base n) a = B a := by
  rw [imageByte, List.getD_eq_getElem?_getD, bytesFrom_getElem? B base h, Option.getD_some, BitVec.ofNat_toNat,
    BitVec.setWidth_eq, add_comm, BitVec.sub_add_cancel]

/-- Everything an answer of the environment says of the next transaction. -/
theorem environmentAnswers_cases {q q' : List TransportAnswer} {k k' : Nat} {answer : Option (Addr → Byte)}
    (h : EnvironmentAnswers q k answer q' k') :
    (∀ addr n, nextAnswer q k addr n = answer.map fun B => bytesFrom B addr n) ∧
      q' = q.tail ∧ k' = nextFreeIdx q k ∧ q.head? ≠ some .never := by
  match q, h with
  | [], ⟨ha, hq, hk⟩ =>
    subst ha
    refine ⟨fun addr n => ?_, hq, hk, by simp⟩
    show freeAnswer k addr n = _
    cases hs : Config.transportSucceeds k <;> simp [freeAnswer, bytesFrom, hs]
  | .image _ :: _, ⟨ha, hq, hk⟩ => subst ha; exact ⟨fun _ _ => rfl, hq, hk, by simp⟩
  | .failed :: _, ⟨ha, hq, hk⟩ => subst ha; exact ⟨fun _ _ => rfl, hq, hk, by simp⟩

/-- A transaction has an answer unless it is never answered. -/
theorem environmentAnswers_exists {q : List TransportAnswer} (k : Nat) (h : q.head? ≠ some .never) :
    ∃ answer q' k', EnvironmentAnswers q k answer q' k' := by
  match q with
  | [] => exact ⟨_, _, _, rfl, rfl, rfl⟩
  | .image _ :: _ => exact ⟨_, _, _, rfl, rfl, rfl⟩
  | .failed :: _ => exact ⟨_, _, _, rfl, rfl, rfl⟩
  | .never :: _ => exact absurd rfl h

/-- One successful transaction does not hang; the rest decides. -/
theorem transportHangs_of_success {q q' : List TransportAnswer} {k k' : Nat} {B : Addr → Byte} {n : Nat}
    (h : EnvironmentAnswers q k (some B) q' k') (hn : transportHangs n q' = false) : transportHangs (n + 1) q = false := by
  match q, h with
  | [], _ => rfl
  | .image _ :: _, ⟨_, hq, _⟩ => subst hq; exact hn
  | .failed :: _, ⟨ha, _, _⟩ => cases ha

/-- A failing transaction does not hang. -/
theorem transportHangs_of_failure {q q' : List TransportAnswer} {k k' : Nat} {n : Nat}
    (h : EnvironmentAnswers q k none q' k') : transportHangs (n + 1) q = false := by
  match q, h with
  | [], _ => rfl
  | .image _ :: _, ⟨ha, _, _⟩ => cases ha
  | .failed :: _, _ => rfl

/-- A load whose bursts succeed: it does not hang, and its three answers, the rest of the list and the free index. -/
theorem BurstsSucceed.answers {s : State} {B1 B2 B3 : Addr → Byte} {q : List TransportAnswer} {k : Nat}
    (h : BurstsSucceed s B1 B2 B3 q k) :
    transportHangs 3 s.transport = false ∧
      burstAnswer1 s = some (bytesFrom B1 0x88 24) ∧ burstAnswer2 s = some (bytesFrom B2 0xA1 1) ∧
      burstAnswer3 s = some (bytesFrom B3 0xE1 7) ∧ q = s.transport.tail.tail.tail ∧
      k = nextFreeIdx s.transport.tail.tail (nextFreeIdx s.transport.tail (nextFreeIdx s.transport s.freeIdx)) := by
  obtain ⟨q1, k1, q2, k2, h1, h2, h3⟩ := h
  obtain ⟨a1, rfl, rfl, -⟩ := environmentAnswers_cases h1
  obtain ⟨a2, rfl, rfl, -⟩ := environmentAnswers_cases h2
  obtain ⟨a3, rfl, rfl, -⟩ := environmentAnswers_cases h3
  exact ⟨transportHangs_of_success h1 (transportHangs_of_success h2 (transportHangs_of_success h3 rfl)),
    a1 _ _, a2 _ _, a3 _ _, rfl, rfl⟩

end Sys2Proof.Machine
end

