-- ==== Sys2Proof/Laws/PerInstr.lean ====
section
/-! SUPPORT. The per-instruction family `EncodingFields`: what the fields of each encoded command hold. -/

namespace Sys2Proof.Laws.EncodingFields

/-- The encoded command carries the opcode of 30_encoding.md R83 in bits 39:32, and a well-formed command's operand field
keeps the must-be-zero bits of its format 0 (R81): formats N and R have them, format I has none. -/
def Statement (i : Instr) : Prop :=
  1 ≤ (Command.op (encode i)).toNat ∧ (Command.op (encode i)).toNat ≤ 5 ∧
  (i = .ldcal → Command.arg (encode i) = 0) ∧
  (∀ idx, i = .rdreg idx → i.wellFormed = true → (Command.arg (encode i)).toNat ≤ 0x16)

theorem ldcal : Statement .ldcal := by
  refine ⟨?_, ?_, fun _ => ?_, fun _ h => ?_⟩
  · rw [encode_op]; decide
  · rw [encode_op]; decide
  · rw [encode_arg]; rfl
  · cases h

theorem compt (imm : Word) : Statement (.compt imm) := by
  refine ⟨?_, ?_, fun h => ?_, fun _ h => ?_⟩
  · rw [encode_op]; show 1 ≤ (2 : Byte).toNat; decide
  · rw [encode_op]; show (2 : Byte).toNat ≤ 5; decide
  · cases h
  · cases h

theorem compp (imm : Word) : Statement (.compp imm) := by
  refine ⟨?_, ?_, fun h => ?_, fun _ h => ?_⟩
  · rw [encode_op]; show 1 ≤ (3 : Byte).toNat; decide
  · rw [encode_op]; show (3 : Byte).toNat ≤ 5; decide
  · cases h
  · cases h

theorem comph (imm : Word) : Statement (.comph imm) := by
  refine ⟨?_, ?_, fun h => ?_, fun _ h => ?_⟩
  · rw [encode_op]; show 1 ≤ (4 : Byte).toNat; decide
  · rw [encode_op]; show (4 : Byte).toNat ≤ 5; decide
  · cases h
  · cases h

theorem rdreg (idx : Byte) : Statement (.rdreg idx) := by
  refine ⟨?_, ?_, fun h => ?_, fun _ _ hw => ?_⟩
  · rw [encode_op]; show 1 ≤ (5 : Byte).toNat; decide
  · rw [encode_op]; show (5 : Byte).toNat ≤ 5; decide
  · cases h
  · rw [encode_arg]
    have h : idx.toNat ≤ 0x16 := by
      have := of_decide_eq_true hw
      simpa [lastRegIndex, BitVec.le_def] using this
    have e : ((0 : BitVec 24) ++ idx).toNat = idx.toNat := by
      rw [BitVec.toNat_append]
      simp
    exact e.le.trans h

end Sys2Proof.Laws.EncodingFields
end

