-- ==== Sys2Proof/Laws/Run.lean ====
section
/-! SUPPORT. Runs of several steps, one step at a time. -/

namespace Sys2Proof.Machine

/-- A run of no step stays where it is. -/
theorem run_zero (s : State) : Host.Core.run Sys2Proof.core 0 s = .next s := rfl

/-- A longer run takes one step first. -/
theorem run_succ (M : Host.Core) (k : Nat) (s : M.State) :
    M.run (k + 1) s =
      match M.step s with
      | .next u => M.run k u
      | .fault r => .fault r
      | .refused r => .refused r := by
  cases h : M.step s <;> simp [Host.Core.run, h]

/-- A run whose first step answers a next state goes on from there. -/
theorem run_succ_of_next {s u : State} (h : step s = .next u) (k : Nat) :
    Host.Core.run Sys2Proof.core (k + 1) s = Host.Core.run Sys2Proof.core k u := by
  refine (run_succ Sys2Proof.core k s).trans ?_
  have h' : Sys2Proof.core.step s = .next u := h
  rw [h']

/-- A run that answers a next state has a first step that does. -/
theorem run_succ_next {s t : State} {k : Nat} (h : Host.Core.run Sys2Proof.core (k + 1) s = .next t) :
    ∃ u, step s = .next u ∧ Host.Core.run Sys2Proof.core k u = .next t := by
  replace h := (run_succ Sys2Proof.core k s).symm.trans h
  cases hs : step s with
  | next u =>
    have h' : Sys2Proof.core.step s = .next u := hs
    rw [h'] at h
    exact ⟨u, rfl, h⟩
  | fault r =>
    have h' : Sys2Proof.core.step s = .fault r := hs
    rw [h'] at h
    cases h
  | refused r =>
    have h' : Sys2Proof.core.step s = .refused r := hs
    rw [h'] at h
    cases h

/-- A step on a command word that decodes runs the command. -/
theorem step_command {s : State} {w : Command} {rest : List HostInput} {i : Instr} (hi : s.inputs = .command w :: rest)
    (hd : decode w = .ok i) : step s = exec i { s with inputs := rest } := by
  simp only [step, takeInput, hi, runCommand, hd]

end Sys2Proof.Machine
end

