-- ==== Sys2Proof/Tests/Slice0.lean ====
section
/-! SUPPORT. Our own tests: the WellFormed smoke test, decoding of words written out bit by bit, one-step tests from the spec's vectors (95_test_vectors.md), and a witness for the hypotheses of every statement. -/

namespace Sys2Proof.Machine.Tests

/-! ### Well-formedness -/

theorem test_wellformed_refuses_reserved_index : (Instr.rdreg 0x17).wellFormed = false := by decide
theorem test_wellformed_refuses_last_index : (Instr.rdreg 0xFF).wellFormed = false := by decide
theorem test_wellformed_accepts_status : (Instr.rdreg 0x16).wellFormed = true := by decide

/-! ### Decoding: words written from the formats of 30_encoding.md R81 and the opcodes of R83 -/

theorem test_decode_ldcal :
    decode 0b0000000100000000000000000000000000000000 = .ok .ldcal := by decide
theorem test_decode_compt :
    decode 0b0000001000000000000001111110111011010000 = .ok (.compt 519888) := by decide
theorem test_decode_compp :
    decode 0b0000001100000000000001100101010110101100 = .ok (.compp 415148) := by decide
theorem test_decode_comph :
    decode 0b0000010000000000000000000111010100110000 = .ok (.comph 30000) := by decide
theorem test_decode_rdreg :
    decode 0b0000010100000000000000000000000000010001 = .ok (.rdreg 0x11) := by decide
theorem test_decode_refuses_zero_word : decode 0 = .error (.reservedOpcode 0) := by decide
theorem test_decode_refuses_opcode_6 : decode 0x0600000000 = .error (.reservedOpcode 6) := by decide
theorem test_decode_refuses_ldcal_operand : decode 0x0180000000 = .error (.ldcalOperand 0x80000000) := by decide
theorem test_decode_refuses_rdreg_mbz : decode 0x0500000100 = .error (.rdregMustBeZero 0x100) := by decide
theorem test_decode_refuses_rdreg_index : decode 0x0500000017 = .error (.rdregReservedIndex 0x17) := by decide
theorem test_encode_words :
    [encode .ldcal, encode (.compt 519888), encode (.compp 415148), encode (.comph 30000), encode (.rdreg 0x12)] =
      [0x0100000000, 0x020007EED0, 0x03000655AC, 0x0400007530, 0x0500000012] := by decide
theorem test_table_word : decodeTableWord 40 0x0500000016 = some (.rdreg 0x16) := by decide

/-! ### Small states -/

/-- Fixture IMG-A (95_test_vectors.md section 2.1) as a sensor image. -/
def imgA : Memory :=
  writeBytes (writeBytes (writeBytes [] 0x88
    [0x70, 0x6B, 0x43, 0x67, 0x18, 0xFC, 0x7D, 0x8E, 0x43, 0xD6, 0xD0, 0x0B,
      0x27, 0x0B, 0x8C, 0x00, 0xF9, 0xFF, 0x8C, 0x3C, 0xF8, 0xC6, 0x70, 0x17])
    0xA1 [0x4B]) 0xE1 [0x72, 0x01, 0x00, 0x12, 0x2C, 0x03, 0x1E]

/-- The coefficients of fixture IMG-A (95_test_vectors.md section 2.1). -/
def coefA : Coefs :=
  { t1 := 27504, t2 := 26435, t3 := -1000
    p1 := 36477, p2 := -10685, p3 := 3024, p4 := 2855, p5 := 140, p6 := -7, p7 := 15500, p8 := -14600, p9 := 6000
    h1 := 75, h2 := 370, h3 := 0, h4 := 300, h5 := 50, h6 := 30 }

/-- A block ready for every command, with `T_FINE = 128422`. -/
def ready : State := { State.reset with coef := coefA, tFine := 128422, calValid := true, tfSet := true }

/-- A block whose next transactions get these answers. -/
def answered (q : List TransportAnswer) : State := { State.reset with transport := q }

/-- The next state, where there is one. -/
def nextOf : Result → Option State
  | .next t => some t
  | .fault _ => none
  | .refused _ => none

/-! ### One step of each command (expected values from 95_test_vectors.md section 3) -/

theorem test_ldcal_loads : (nextOf (execLdcal (answered [.image imgA, .image imgA, .image imgA]))).map State.coef =
    some coefA := by decide
theorem test_ldcal_burst2_fails :
    (nextOf (execLdcal (answered [.image imgA, .failed]))).map (fun t => (t.responses, t.coef.p9, t.coef.h1, t.calValid)) =
      some ([0x0200000000], 6000, 0, false) := by decide
theorem test_compt_example :
    (nextOf (execCompt 519888 { ready with tfSet := false })).map (fun t => (t.tFine, t.tfSet, t.responses)) =
      some (128422, true, [0x00000009CC]) := by decide
theorem test_compt_wraps :
    (nextOf (execCompt 0 { ready with coef := { coefA with t1 := 65535, t2 := 0, t3 := 32767 } })).map
      (fun t => (t.tFine, t.responses)) = some (-64, [0x00FFFFFFFF]) := by decide
theorem test_compp_truncates_toward_zero :
    (nextOf (execCompp 1048575 ready)).map State.responses = some [0x00FFE61920] := by decide
theorem test_compp_guard :
    (nextOf (execCompp 415148 { ready with coef := { coefA with p1 := 0 }, pOut := 7 })).map
      (fun t => (t.pOut, t.responses)) = some (0, [0x0000000000]) := by decide
theorem test_comph_width_64 :
    (nextOf (execComph 1048576 ready)).map State.responses = some [0x0000019000] := by decide
theorem test_comph_h3_term :
    (nextOf (execComph 30000 { ready with coef := { coefA with h3 := 10 } })).map State.responses =
      some [0x000000F3C0] := by decide
theorem test_rdreg_sign_extends :
    (nextOf (execRdreg 0x02 ready)).map State.responses = some [0x00FFFFFC18] := by decide
theorem test_rdreg_status :
    (nextOf (execRdreg 0x16 { ready with calValid := false })).map State.responses = some [0x0000000002] := by decide

/-! ### The command port -/

theorem test_step_runs_first_word :
    (nextOf (step (State.reset.withFetchWord 40 0x0500000016))).map State.responses = some [0x0000000000] := by decide
theorem test_step_ldcal_from_reset_completes : ∃ t, step (State.reset.withFetchWord 40 0x0100000000) = .next t :=
  ⟨_, rfl⟩
theorem test_step_illegal :
    (nextOf (step (State.reset.withFetchWord 40 0x0600000000))).map State.responses = some [0x0300000000] := by decide
theorem test_assemble_compall :
    assembleLine "COMPALL 519888, 415148, 30000 ; one sample".toList =
      some [0x020007EED0, 0x03000655AC, 0x0400007530] := by decide
theorem test_assemble_register_name : assembleLine "RDREG T_FINE".toList = some [0x0500000012] := by decide
theorem test_image_canonical : Memory.wf imgA = true := by decide

/-! ### Witnesses: a concrete state and operands that meet the hypotheses of each statement, clause by clause -/

theorem witness_DecodeInvertsEncode : (Instr.rdreg 0x16).wellFormed = true ∧ (Instr.compt 0x80000000).wellFormed = true := by
  decide

theorem witness_EncodeInvertsDecode : decode 0x0500000016 = .ok (.rdreg 0x16) := by decide

theorem witness_LegalWordsSelectTheirOperation :
    ((0x0100000000 : Command).toNat / 2 ^ 32 = 1 ∧ (0x0100000000 : Command).toNat % 2 ^ 32 = 0) ∧
    (0x02FFFFFFFF : Command).toNat / 2 ^ 32 = 2 ∧ (0x0300000000 : Command).toNat / 2 ^ 32 = 3 ∧
    (0x0480000000 : Command).toNat / 2 ^ 32 = 4 ∧
    ((0x0500000016 : Command).toNat / 2 ^ 32 = 5 ∧ (0x0500000016 : Command).toNat % 2 ^ 32 ≤ 0x16) := by decide

theorem witness_DecoderAgreesWithOpcodeTable :
    ∃ r ∈ opcodeTable, r.covers 0x0500000016 = true ∧
      (r.mnemonic = "RDREG" → (0x0500000016 : Command).toNat % 256 ≤ 0x16) ∧
      decode 0x0500000016 = .ok (.rdreg 0x16) := by decide

/-- A state to which the host presents one word. -/
def presented (w : Command) : State := { ready with inputs := [.command w] }

theorem witness_StepRunsTheDecodedCommand :
    (presented 0x020007EED0).inputs = .command 0x020007EED0 :: [] ∧ decode 0x020007EED0 = .ok (.compt 519888) := by
  decide

theorem witness_IllegalCommandHasNoEffect :
    (presented 0x0500000017).inputs = .command 0x0500000017 :: [] ∧
      decode 0x0500000017 = .error (.rdregReservedIndex 0x17) := by decide

theorem witness_EveryCommandAnswersOnce :
    ∃ t, (presented 0x0500000012).inputs = .command 0x0500000012 :: [] ∧ step (presented 0x0500000012) = .next t :=
  ⟨_, rfl, rfl⟩

theorem witness_ResetEventRestoresRegisters :
    ({ ready with inputs := [.reset] } : State).inputs = .reset :: [] := by decide

theorem witness_PassiveAndOverlapping :
    State.reset.inputs = [] ∧ ({ ready with inputs := [.overlapping 0 1] } : State).inputs = .overlapping 0 1 :: [] := by
  decide

theorem witness_ParametersOnlyReachLdcal : Instr.compt 0 ≠ .ldcal := by decide

/-- Three listed images make the three bursts succeed. -/
theorem answered_bursts :
    BurstsSucceed (answered [.image imgA, .image [], .image imgA, .failed]) (readByte imgA) (readByte [])
      (readByte imgA) [.failed] 0 :=
  ⟨_, _, _, _, ⟨rfl, rfl, rfl⟩, ⟨rfl, rfl, rfl⟩, rfl, rfl, rfl⟩

/-- With no listed answer, as from reset, free values answer: with bytes or with failure. -/
theorem free_answer :
    (∃ B, EnvironmentAnswers State.reset.transport State.reset.freeIdx (some B) [] 1) ∨
      EnvironmentAnswers State.reset.transport State.reset.freeIdx none [] 1 := by
  have h : ∀ b, Config.transportSucceeds 0 = b → (if Config.transportSucceeds 0 then some (Config.sensorByte 0) else none) =
      if b then some (Config.sensorByte 0) else none := by intro b hb; rw [hb]
  cases hs : Config.transportSucceeds 0
  · exact .inr ⟨(h _ hs).symm, rfl, rfl⟩
  · exact .inl ⟨_, (h _ hs).symm, rfl, rfl⟩

theorem witness_AfterResetOnlyLoadsAndPlainReadsSucceed :
    (0x11 : Byte).toNat ≤ 0x11 ∧ (0x12 ≤ (0x12 : Byte).toNat ∧ (0x16 : Byte).toNat ≤ 0x16) ∧
      BurstsSucceed (answered [.image imgA, .image [], .image imgA, .failed]) (readByte imgA) (readByte [])
        (readByte imgA) [.failed] 0 :=
  ⟨by decide, by decide, answered_bursts⟩

/-- The image bytes of the document's example, and any byte elsewhere. -/
def exampleBytes (a : Addr) : Byte := if a = 0xE4 then 0x12 else if a = 0xE5 then 0x34 else if a = 0xE6 then 0x56 else 0

theorem witness_NibbleExampleUnpacks :
    exampleBytes 0xE4 = 0x12 ∧ exampleBytes 0xE5 = 0x34 ∧ exampleBytes 0xE6 = 0x56 := by decide

/-- An image with bit 7 of the bytes at 0xE4 and 0xE6 set. -/
def imgHigh : Memory := writeBytes [] 0xE4 [0x80, 0x00, 0x80]

theorem witness_NibbleExtensionFollowsTheParameter :
    (∃ t t',
      BurstsSucceed (answered [.image imgA, .image [], .image imgA]) (readByte imgA) (readByte []) (readByte imgA) [] 0 ∧
      Config.params.h45SignExtend = true ∧ ({ Config.params with h45SignExtend := false } : Params).h45SignExtend = false ∧
      execLdcalWith Config.params (answered [.image imgA, .image [], .image imgA]) = .next t ∧
      execLdcalWith { Config.params with h45SignExtend := false } (answered [.image imgA, .image [], .image imgA]) =
        .next t' ∧
      (readByte imgA 0xE4).toNat < 128) ∧
    BurstsSucceed (answered [.image [], .image [], .image imgHigh]) (readByte []) (readByte []) (readByte imgHigh) [] 0 ∧
      ¬(readByte imgHigh 0xE4).toNat < 128 ∧ ¬(readByte imgHigh 0xE6).toNat < 128 :=
  ⟨⟨_, _, ⟨_, _, _, _, ⟨rfl, rfl, rfl⟩, ⟨rfl, rfl, rfl⟩, rfl, rfl, rfl⟩, rfl, rfl, rfl, rfl, by decide⟩,
    ⟨_, _, _, _, ⟨rfl, rfl, rfl⟩, ⟨rfl, rfl, rfl⟩, rfl, rfl, rfl⟩, by decide, by decide⟩

theorem witness_ReadTransactionIsWholeOrFails :
    EnvironmentAnswers (answered [.image imgA]).transport (answered [.image imgA]).freeIdx (some (readByte imgA)) [] 0 ∧
      EnvironmentAnswers (answered [.failed]).transport (answered [.failed]).freeIdx none [] 0 ∧
      ((∃ B, EnvironmentAnswers State.reset.transport State.reset.freeIdx (some B) [] 1) ∨
        EnvironmentAnswers State.reset.transport State.reset.freeIdx none [] 1) ∧
      (answered [.never]).transport.head? = some .never ∧ (answered []).transport.head? ≠ some .never :=
  ⟨⟨rfl, rfl, rfl⟩, ⟨rfl, rfl, rfl⟩, free_answer, by decide, by decide⟩

theorem witness_LdcalLoadsEveryCoefficient :
    BurstsSucceed (answered [.image imgA, .image [], .image imgA, .failed]) (readByte imgA) (readByte [])
      (readByte imgA) [.failed] 0 := answered_bursts

theorem witness_LdcalFailureKeepsEarlierBursts :
    EnvironmentAnswers (answered [.failed]).transport 0 none [] 0 ∧
      (EnvironmentAnswers (answered [.image imgA, .failed]).transport 0 (some (readByte imgA)) [.failed] 0 ∧
        EnvironmentAnswers [.failed] 0 none [] 0) ∧
      EnvironmentAnswers (answered [.image imgA, .image [], .failed]).transport 0 (some (readByte imgA))
          [.image [], .failed] 0 ∧
        EnvironmentAnswers [.image [], .failed] 0 (some (readByte [])) [.failed] 0 ∧
        EnvironmentAnswers [.failed] 0 none [] 0 :=
  ⟨⟨rfl, rfl, rfl⟩, ⟨⟨rfl, rfl, rfl⟩, rfl, rfl, rfl⟩, ⟨rfl, rfl, rfl⟩, ⟨rfl, rfl, rfl⟩, rfl, rfl, rfl⟩

theorem witness_LdcalAnswersUnderEveryEnvironment :
    .never ∉ (answered []).transport ∧ .never ∉ (answered [.image imgA, .failed]).transport := by decide

theorem witness_LdcalStopsOnlyWithoutAnAnswer :
    (∃ rest, (answered [.never]).transport = .never :: rest) ∧
      (∃ m1 rest, (answered [.image imgA, .never]).transport = .image m1 :: .never :: rest) ∧
      (∃ m1 m2 rest, (answered [.image imgA, .image [], .never]).transport =
        .image m1 :: .image m2 :: .never :: rest) :=
  ⟨⟨_, rfl⟩, ⟨_, _, rfl⟩, ⟨_, _, _, rfl⟩⟩

theorem witness_ReloadOverwritesEverything_success :
    ∃ t, exec .ldcal (answered [.image imgA, .image imgA, .image imgA]) = .next t ∧ t.calValid = true := ⟨_, rfl, rfl⟩

theorem witness_ReloadOverwritesEverything_twice :
    BurstsSucceed (answered [.image imgA, .image [], .image imgA, .image imgA, .image [], .image imgA]) (readByte imgA)
        (readByte []) (readByte imgA) [.image imgA, .image [], .image imgA] 0 ∧
      BurstsSucceed (answered [.image imgA, .image [], .image imgA]) (readByte imgA) (readByte []) (readByte imgA) [] 0 :=
  ⟨⟨_, _, _, _, ⟨rfl, rfl, rfl⟩, ⟨rfl, rfl, rfl⟩, rfl, rfl, rfl⟩, _, _, _, _, ⟨rfl, rfl, rfl⟩, ⟨rfl, rfl, rfl⟩, rfl, rfl, rfl⟩

theorem witness_ReloadOverwritesEverything_retry :
    ∃ t, exec .ldcal (answered [.failed, .image imgA, .image [], .image imgA]) = .next t ∧ t.calValid = false ∧
      BurstsSucceed t (readByte imgA) (readByte []) (readByte imgA) [] 0 :=
  ⟨_, rfl, rfl, _, _, _, _, ⟨rfl, rfl, rfl⟩, ⟨rfl, rfl, rfl⟩, rfl, rfl, rfl⟩

theorem witness_ReloadOverwritesEverything_failure :
    ∃ t, ready.calValid = true ∧ exec .ldcal { ready with transport := [.failed] } = .next t ∧
      t.responses = transportWord :: ready.responses := ⟨_, rfl, rfl, rfl⟩

theorem witness_CopyPasteParameterDuplicatesP2 :
    BurstsSucceed (answered [.image imgA, .image [], .image imgA, .failed]) (readByte imgA) (readByte [])
      (readByte imgA) [.failed] 0 := answered_bursts

theorem witness_OnlyLdcalReadsAndNothingWrites :
    (∃ t, exec .ldcal (answered [.failed]) = .next t) ∧ ∃ t, exec (.compt 519888) ready = .next t :=
  ⟨⟨_, rfl⟩, ⟨_, rfl⟩⟩

/-- A write that stood on the bus before a command and a step. -/
theorem witness_NoCommandWritesTheSensor :
    (∃ t, exec .ldcal { answered [.failed] with bus := [.memWrite 0xF4 0x25] } = .next t ∧
      Transaction.memWrite 0xF4 0x25 ∈ t.bus) ∧
    ∃ t, step { presented 0x020007EED0 with bus := [.memWrite 0xF4 0x25] } = .next t ∧
      Transaction.memWrite 0xF4 0x25 ∈ t.bus :=
  ⟨⟨_, rfl, by decide⟩, _, rfl, by decide⟩

theorem witness_ComptComputesTemperature :
    ready.calValid = true ∧ State.reset.calValid = false ∧ coefA.t1 = 27504 ∧ coefA.t2 = 26435 ∧ coefA.t3 = -1000 := by
  decide

theorem witness_TemperatureIsExactWhenProductsFit :
    (-2147483648 ≤ ((519888 : Word).toInt / 8 - 2 * (coefA.t1.toNat : Int)) * coefA.t2.toInt ∧
      ((519888 : Word).toInt / 8 - 2 * (coefA.t1.toNat : Int)) * coefA.t2.toInt ≤ 2147483647) ∧
    ((519888 : Word).toInt / 16 - coefA.t1.toNat) * ((519888 : Word).toInt / 16 - coefA.t1.toNat) ≤ 2147483647 ∧
    (-2147483648 ≤ ((519888 : Word).toInt / 16 - coefA.t1.toNat) * ((519888 : Word).toInt / 16 - coefA.t1.toNat) / 4096 *
        coefA.t3.toInt ∧
      ((519888 : Word).toInt / 16 - coefA.t1.toNat) * ((519888 : Word).toInt / 16 - coefA.t1.toNat) / 4096 *
        coefA.t3.toInt ≤ 2147483647) := by decide

theorem witness_ComptIsPure :
    ready.calValid = true ∧ ({ ready with tFine := 5, pOut := 9 } : State).calValid = true ∧
      ready.coef.t1 = ({ ready with tFine := 5, pOut := 9 } : State).coef.t1 ∧
      ready.coef.t2 = ({ ready with tFine := 5, pOut := 9 } : State).coef.t2 ∧
      ready.coef.t3 = ({ ready with tFine := 5, pOut := 9 } : State).coef.t3 := by decide

theorem witness_ComptIgnoresLowThreeBits : (519888 : Word).toNat / 8 = (519895 : Word).toNat / 8 := by decide

theorem witness_ComppComputesPressure :
    (ready.calValid = true ∧ ready.tfSet = true) ∧
      (({ ready with calValid := false } : State).calValid = false ∨ ready.tfSet = false) ∧
      (ready.calValid = false ∨ ({ ready with tfSet := false } : State).tfSet = false) := by decide

theorem witness_PressureGuardReturnsZero :
    pressureDenominatorWord { coefA with p1 := 0 } 128422 = 0 ∧
      pressureDenominatorWord { coefA with p2 := -32768, p3 := 0 } 1176576 = 0 ∧
      ({ coefA with p2 := -32768, p3 := 0 } : Coefs).p1 ≠ 0 := by decide

theorem witness_PressureScales :
    ready.calValid = true ∧ ready.tfSet = true ∧ ready.tFine = 128422 ∧ ready.coef = coefA ∧
      (coefA.p1 = 36477 ∧ coefA.p2 = -10685 ∧ coefA.p3 = 3024 ∧ coefA.p4 = 2855 ∧ coefA.p5 = 140 ∧ coefA.p6 = -7 ∧
        coefA.p7 = 15500 ∧ coefA.p8 = -14600 ∧ coefA.p9 = 6000) := by decide

theorem witness_ComppUsesTheLastFineTemperature :
    (ready.tFine = ({ ready with tOut := 1, hOut := 2 } : State).tFine ∧
      ready.coef = ({ ready with tOut := 1, hOut := 2 } : State).coef) ∧
      ({ ready with tfSet := false } : State).tfSet = false ∧
      (ready.tFine = 128422 ∧ ({ ready with tFine := 262276 } : State).tFine = 262276) ∧ ready.coef = coefA ∧
      (coefA.p1 = 36477 ∧ coefA.p2 = -10685 ∧ coefA.p3 = 3024 ∧ coefA.p4 = 2855 ∧ coefA.p5 = 140 ∧ coefA.p6 = -7 ∧
        coefA.p7 = 15500 ∧ coefA.p8 = -14600 ∧ coefA.p9 = 6000) := by decide

theorem witness_ComphUsesTheLastFineTemperature :
    (ready.tFine = ({ ready with tOut := 1, pOut := 2 } : State).tFine ∧
      ready.coef = ({ ready with tOut := 1, pOut := 2 } : State).coef) ∧
      ({ ready with tfSet := false } : State).tfSet = false ∧
      (ready.tFine = 128422 ∧ ({ ready with tFine := 262276 } : State).tFine = 262276) ∧ ready.coef = coefA ∧
      (coefA.h1 = 75 ∧ coefA.h2 = 370 ∧ coefA.h3 = 0 ∧ coefA.h4 = 300 ∧ coefA.h5 = 50 ∧ coefA.h6 = 30) := by decide

theorem witness_ComphComputesHumidity :
    (ready.calValid = true ∧ ready.tfSet = true) ∧
      (State.reset.calValid = false ∨ ready.tfSet = false) ∧
      (ready.calValid = false ∨ ({ ready with tfSet := false } : State).tfSet = false) := by decide

theorem witness_HumidityIsClampedBeforeTheShift : ready.calValid = true ∧ ready.tfSet = true := by decide

theorem witness_CompensationNeverFaultsOnValues :
    ({ ready with tfSet := false } : State).calValid = true ∧
      (({ ready with tFine := -1 } : State).calValid = true ∧ ({ ready with tFine := -1 } : State).tfSet = true) ∧
      pressureDenominatorWord { coefA with p1 := 0 } 128422 = 0 ∧
      BurstsSucceed (answered [.image imgA, .image [], .image imgA, .failed]) (readByte imgA) (readByte [])
        (readByte imgA) [.failed] 0 :=
  ⟨by decide, by decide, by decide, answered_bursts⟩

theorem witness_TemperatureHasHundredthResolution : ready.calValid = true ∧ coefA.t1 = 27504 := by decide

theorem witness_RdregReturnsTheNamedRegister :
    ((0x11 : Byte).toNat ≤ 0x16 ∧ ready.calValid = true) ∧ (0x12 ≤ (0x16 : Byte).toNat ∧ (0x16 : Byte).toNat ≤ 0x16) ∧
      ((0x11 : Byte).toNat ≤ 0x11 ∧ State.reset.calValid = false) ∧ 0x17 ≤ (0x17 : Byte).toNat := by decide

theorem witness_UninitializedErrorHasNoEffect :
    (State.reset.calValid = false ∧ ∃ idx : Byte, Instr.rdreg 0x11 = .rdreg idx ∧ idx.toNat ≤ 0x11) ∧
      (({ ready with tfSet := false } : State).tfSet = false ∧ ∃ imm, Instr.compp 1 = .compp imm) :=
  ⟨⟨rfl, 0x11, rfl, by decide⟩, rfl, 1, rfl⟩

theorem witness_FailedCommandsChangeNothingElse_illegal :
    ∃ t, (presented 0x0600000000).inputs = .command 0x0600000000 :: [] ∧ step (presented 0x0600000000) = .next t ∧
      t.responses = 0x0300000000 :: ready.responses ∧ 2 ^ 32 ≤ (0x0300000000 : Response).toNat :=
  ⟨_, rfl, rfl, rfl, by decide⟩

theorem witness_FailedCommandsChangeNothingElse_transport :
    ∃ t, step { presented 0x0100000000 with transport := [.failed] } = .next t ∧
      t.responses = 0x0200000000 :: ready.responses ∧ 2 ^ 32 ≤ (0x0200000000 : Response).toNat :=
  ⟨_, rfl, rfl, by decide⟩

theorem witness_FineTemperatureIsWrittenOnlyByCompt :
    (∃ t, exec (.compp 415148) ready = .next t ∧ ∀ imm, Instr.compp 415148 ≠ .compt imm) ∧ ready.calValid = true ∧
      ∃ t, exec .ldcal (answered [.failed]) = .next t :=
  ⟨⟨_, rfl, by intro _ h; cases h⟩, rfl, ⟨_, rfl⟩⟩

theorem witness_CoefficientsAreWrittenOnlyByLdcal :
    (∃ t, exec (.comph 30000) ready = .next t ∧ Instr.comph 30000 ≠ .ldcal) ∧
      BurstsSucceed (answered [.image imgA, .image [], .image imgA, .failed]) (readByte imgA) (readByte [])
        (readByte imgA) [.failed] 0 :=
  ⟨⟨_, rfl, by decide⟩, answered_bursts⟩

theorem witness_FlagsFollowTheirRules :
    (∃ t, exec .ldcal (answered [.image imgA, .image imgA, .image imgA]) = .next t) ∧
      (∃ t, exec (.compt 0) { ready with tfSet := false } = .next t) ∧ ∃ t, exec (.rdreg 0x16) ready = .next t :=
  ⟨⟨_, rfl⟩, ⟨_, rfl⟩, ⟨_, rfl⟩⟩

theorem witness_ComputeAndReadFrame :
    ∃ t, Instr.compt 519888 ≠ .ldcal ∧ exec (.compt 519888) { ready with transport := [.image imgA] } = .next t ∧
      ({ ready with transport := [.image imgA] } : State).transport[0]? = some (.image imgA) :=
  ⟨_, by decide, rfl, rfl⟩

/-- A sound state beyond reset: after a load and a temperature, with an image held ready. -/
theorem witness_EveryStepKeepsSoundness :
    ∃ s t, Sound s ∧ s.tfSet = true ∧ s.calValid = true ∧ step s = .next t := by
  refine ⟨{ ready with tOut := 2508, inputs := [.command 0x0100000000], transport := [.image imgA] }, _, ?_, rfl, rfl, rfl⟩
  exact
    { temperatureBounded := by unfold TemperatureBounded; decide
      temperatureCoupled := by unfold TemperatureCoupled; decide
      humidityBounded := by unfold HumidityBounded; decide
      nibblesBounded := by unfold NibblesBounded; decide
      untouchedBeforeCompt := by unfold UntouchedBeforeCompt; decide
      responsesLegal := by intro r h; cases h
      busOnlyBursts := by intro t h; cases h
      memoriesCanonical := by unfold MemoriesCanonical; decide }

theorem witness_UncalibratedCoefficientsAreUnobservable :
    ∃ t, AgreeUnlessUncalibrated { State.reset with coef := coefA, inputs := [.command 0x0500000000] }
        { State.reset with inputs := [.command 0x0500000000] } ∧
      step { State.reset with coef := coefA, inputs := [.command 0x0500000000] } = .next t :=
  ⟨_, ⟨rfl, by decide⟩, rfl⟩

theorem witness_FineTemperatureSurvivesUntilTheNextCompt :
    ∃ t, Host.Core.run Sys2Proof.core 1 (presented 0x03000655AC) = .next t ∧
      ∀ x ∈ (presented 0x03000655AC).inputs.take 1, LeavesFineTemperature x := by
  refine ⟨_, rfl, ?_⟩
  intro x hx
  have : x = .command 0x03000655AC := by simpa [presented] using hx
  subst this
  intro imm h
  have e : decode 0x03000655AC = .ok (.compp 415148) := by decide
  rw [e] at h
  cases h

theorem witness_CompallUsesItsOwnTemperature :
    ready.calValid = true ∧
      ({ ready with inputs := [.command 0x020007EED0, .command 0x03000655AC, .command 0x0400007530] } : State).inputs =
        (Instr.compall 519888 415148 30000).map (fun i => HostInput.command (encode i)) ++ [] := by decide

theorem witness_AssemblyGivesTheTabledWords :
    parseInteger "-2147483648".toList = some (-(2 ^ 31)) ∧ parseInteger "4294967295".toList = some (2 ^ 32 - 1) ∧
      parseInteger "4294967296".toList = some (2 ^ 32) ∧ regOfIndex 0x16 = some .status ∧
      parseNatural "0xFF".toList = some 255 ∧ parseNatural "256".toList = some 256 := by decide

end Sys2Proof.Machine.Tests
end

section
/-! SUPPORT. Proofs of the statements on who writes `T_FINE` and the coefficient file (10_state.md R23, R24). -/

namespace Sys2Proof.Machine

/-! ### The temperature formula as 32-bit words (41_compensate_temperature.md R140) -/

/-- A 16-bit unsigned coefficient is the value of its zero-extended word. -/
theorem toNat_eq_toInt_setWidth32 (x : Half) : (x.toNat : Int) = (x.setWidth 32).toInt := by
  have hx := x.isLt
  rw [BitVec.toInt_eq_toNat_cond, BitVec.toNat_setWidth]
  omega

/-- A 16-bit signed coefficient is the value of its sign-extended word. -/
theorem toInt_eq_toInt_signExtend32 (x : Half) : x.toInt = (x.signExtend 32).toInt :=
  (BitVec.toInt_signExtend_of_le (by decide)).symm

/-- The integer formula and the word formula for the new `T_FINE` agree. -/
theorem newFine_eq_toInt (s : State) (imm : Word) : s.newFine imm = (fineTemperatureWord s.coef imm).toInt := by
  simp only [State.newFine, fineTemperature, tempVar1, tempVar2, Coefs.value, immOperand, fineTemperatureWord,
    toNat_eq_toInt_setWidth32, toInt_eq_toInt_signExtend32, asr_toInt, shl_toInt, sub_toInt, mul_toInt, add_toInt]

/-- What a completed `COMPT` stores in `T_FINE`. -/
theorem commitTemperature_newFine_tFine (s : State) (imm : Word) :
    (commitTemperature (s.newFine imm) s).tFine = fineTemperatureWord s.coef imm := by
  rw [commitTemperature_eq, newFine_eq_toInt]
  exact u32_toInt32 _

/-! ### `LDCAL` and `T_FINE` -/

/-- A load takes no notice of `T_FINE`: it ends the same way, with `T_FINE` passed through. -/
theorem loadCalibration_with_tFine (p : Params) (s : State) (x : Word) :
    loadCalibration p { s with tFine := x } = { loadCalibration p s with tFine := x } := by
  rcases loadCalibration_cases s with h1 | ⟨b1, h1, h2⟩ | ⟨b1, b2, h1, h2, h3⟩ | ⟨b1, b2, b3, h1, h2, h3⟩
  · rw [loadCalibration_fail1 h1, loadCalibration_fail1 (s := { s with tFine := x }) h1]
  · rw [loadCalibration_fail2 h1 h2, loadCalibration_fail2 (s := { s with tFine := x }) h1 h2]
  · rw [loadCalibration_fail3 h1 h2 h3, loadCalibration_fail3 (s := { s with tFine := x }) h1 h2 h3]
  · rw [loadCalibration_ok h1 h2 h3, loadCalibration_ok (s := { s with tFine := x }) h1 h2 h3]

@[simp] theorem loadCalibration_tFine (p : Params) (s : State) : (loadCalibration p s).tFine = s.tFine :=
  (congrArg State.tFine (loadCalibration_with_tFine p s s.tFine) :)

/-- `LDCAL` neither reads nor writes `T_FINE`. -/
theorem exec_ldcal_with_tFine {s t : State} (h : exec .ldcal s = .next t) (x : Word) :
    exec .ldcal { s with tFine := x } = .next { t with tFine := x } := by
  obtain ⟨hanswered, rfl⟩ := execLdcalWith_next (p := Config.params) h
  rw [← loadCalibration_with_tFine]
  exact execLdcalWith_of_answered hanswered

/-! ### Frames of the other commands -/

/-- A command other than `COMPT` leaves `T_FINE` alone. -/
theorem exec_tFine_of_not_compt {i : Instr} {s t : State} (h : exec i s = .next t) (hi : ∀ imm, i ≠ .compt imm) :
    t.tFine = s.tFine := by
  rcases exec_cases h with ⟨f, rfl⟩ | ⟨-, -, rfl⟩ | ⟨imm, rfl, -⟩ | ⟨imm, -, -, -, rfl⟩ | ⟨imm, -, -, -, rfl⟩ |
    ⟨idx, r, -, -, rfl⟩
  · rfl
  · exact loadCalibration_tFine _ s
  · exact absurd rfl (hi imm)
  · rfl
  · rfl
  · rfl

/-- A command other than `LDCAL` leaves the coefficient file alone. -/
theorem exec_coef_of_not_ldcal {i : Instr} {s t : State} (h : exec i s = .next t) (hi : i ≠ .ldcal) :
    t.coef = s.coef := by
  rcases exec_cases h with ⟨f, rfl⟩ | ⟨rfl, -⟩ | ⟨imm, -, -, rfl⟩ | ⟨imm, -, -, -, rfl⟩ | ⟨imm, -, -, -, rfl⟩ |
    ⟨idx, r, -, -, rfl⟩
  · rfl
  · exact absurd rfl hi
  · rfl
  · rfl
  · rfl
  · rfl

/-! ### `COMPP` and `COMPH` read `T_FINE` -/

/-- A block ready for every command, with the coefficients of the spec's fixture IMG-A and the `T_FINE` that its
temperature example leaves (95_test_vectors.md section 2.1). -/
def readyAfterExampleCompt : State :=
  { State.reset with
    coef :=
      { t1 := 27504, t2 := 26435, t3 := -1000
        p1 := 36477, p2 := -10685, p3 := 3024, p4 := 2855, p5 := 140, p6 := -7, p7 := 15500, p8 := -14600, p9 := 6000
        h1 := 75, h2 := 370, h3 := 0, h4 := 300, h5 := 50, h6 := 30 }
    tFine := 128422
    calValid := true
    tfSet := true }

/-- The two pressures of the spec's example of a stale `T_FINE` (42_compensate_pressure.md R153). -/
theorem compp_responses_depend_on_tFine :
    ∃ t u, exec (.compp 415148) readyAfterExampleCompt = .next t ∧
      exec (.compp 415148) { readyAfterExampleCompt with tFine := 262276 } = .next u ∧
      t.responses = [okWord 25767233] ∧ u.responses = [okWord 26803502] :=
  ⟨_, _, execCompp_ready rfl rfl _, execCompp_ready rfl rfl _, by decide, by decide⟩

/-- The two humidities of the spec's example of a stale `T_FINE` (43_compensate_humidity.md R164). -/
theorem comph_responses_depend_on_tFine :
    ∃ t u, exec (.comph 30000) readyAfterExampleCompt = .next t ∧
      exec (.comph 30000) { readyAfterExampleCompt with tFine := 262276 } = .next u ∧
      t.responses = [okWord 62390] ∧ u.responses = [okWord 63496] :=
  ⟨_, _, execComph_ready rfl rfl _, execComph_ready rfl rfl _, by decide, by decide⟩

/-- Settles O46: the frame of every command but `COMPT`, the word a `COMPT` stores, the indifference of `LDCAL`, and the
spec's two examples of a stale `T_FINE`. -/
theorem fineTemperatureIsWrittenOnlyByCompt : Obligations.FineTemperatureIsWrittenOnlyByCompt := by
  refine ⟨fun _ _ _ => exec_tFine_of_not_compt, fun s imm hcal => ?_, fun _ _ x h => exec_ldcal_with_tFine h x, ?_, ?_⟩
  · exact ⟨_, execCompt_calibrated hcal imm, commitTemperature_newFine_tFine s imm⟩
  · obtain ⟨t, u, ht, hu, hrt, hru⟩ := compp_responses_depend_on_tFine
    exact ⟨_, _, _, t, u, ht, hu, by rw [hrt, hru]; decide⟩
  · obtain ⟨t, u, ht, hu, hrt, hru⟩ := comph_responses_depend_on_tFine
    exact ⟨_, _, _, t, u, ht, hu, by rw [hrt, hru]; decide⟩

/-! ### What a successful load leaves (40_calibration_unpack.md R117, R119) -/

/-- Burst 1 under the default `P3_ADDR` commits `C[0..11]` from the addresses of 20_memory.md R52. -/
theorem commitBurst1_bytesFrom (B : Addr → Byte) (c : Coefs) :
    commitBurst1 Config.params (imageByte 0x88 (bytesFrom B 0x88 24)) c = loadedFirst B c := by
  simp [commitBurst1, loadedFirst, littleEndian, extractU16LE, extractS16LE, p3Addr, Config.params,
    imageByte_bytesFrom]

/-- Burst 2 commits `C[12]`. -/
theorem commitBurst2_bytesFrom (B : Addr → Byte) (c : Coefs) :
    commitBurst2 (imageByte 0xA1 (bytesFrom B 0xA1 1)) c = loadedSecond B c := by
  simp [commitBurst2, loadedSecond, extractU8, imageByte_bytesFrom]

/-- Burst 3 under the default `H45_SIGN_EXTEND` commits `C[13..17]`. -/
theorem commitBurst3_bytesFrom (B : Addr → Byte) (c : Coefs) :
    commitBurst3 Config.params (imageByte 0xE1 (bytesFrom B 0xE1 7)) c = loadedThird B c := by
  simp [commitBurst3, loadedThird, littleEndian, extractU8, extractS8, extractS16LE, extendNibble, nibH4, nibH5,
    Config.params, imageByte_bytesFrom]

/-- The three committed bursts leave nothing of the file that stood before. -/
theorem loadedThird_loadedSecond_loadedFirst (B1 B2 B3 : Addr → Byte) (c : Coefs) :
    loadedThird B3 (loadedSecond B2 (loadedFirst B1 c)) = loaded B1 B2 B3 := rfl

/-- A load whose bursts succeed leaves the coefficient file that their bytes alone determine. -/
theorem loadCalibration_coef_of_burstsSucceed {s : State} {B1 B2 B3 : Addr → Byte} {q : List TransportAnswer} {k : Nat}
    (h : BurstsSucceed s B1 B2 B3 q k) : (loadCalibration Config.params s).coef = loaded B1 B2 B3 := by
  obtain ⟨-, h1, h2, h3, -, -⟩ := h.answers
  rw [loadCalibration_ok h1 h2 h3]
  simp only [commitBurst1_bytesFrom, commitBurst2_bytesFrom, commitBurst3_bytesFrom,
    loadedThird_loadedSecond_loadedFirst]

/-- Settles O47: the frame of every command but `LDCAL`, and the file a successful load leaves. -/
theorem coefficientsAreWrittenOnlyByLdcal : Obligations.CoefficientsAreWrittenOnlyByLdcal := by
  refine ⟨fun _ _ _ => exec_coef_of_not_ldcal, fun s B1 B2 B3 q k h => ?_⟩
  obtain ⟨hanswered, -⟩ := h.answers
  exact ⟨_, execLdcalWith_of_answered hanswered, loadCalibration_coef_of_burstsSucceed h⟩

end Sys2Proof.Machine
end

section
/-! SUPPORT. Proof of the statement that nothing writes the sensor register space (20_memory.md R61). -/

namespace Sys2Proof.Machine

/-- The bus before is the older part of the bus after, and every transaction issued in between is one of the three
bursts. -/
def GrowsByBursts (before after : List Transaction) : Prop :=
  ∃ issued, after = issued ++ before ∧ ∀ x ∈ issued, BurstTransaction x

/-- A bus to which nothing was added grows by no burst. -/
theorem growsByBursts_refl (bus : List Transaction) : GrowsByBursts bus bus := ⟨[], rfl, by simp⟩

/-- A write is none of the three bursts. -/
theorem not_burstTransaction_memWrite (a : Addr) (v : Byte) : ¬ BurstTransaction (.memWrite a v) := by
  simp [BurstTransaction]

/-- A load issues none but the three bursts; whatever else the bus holds after it was there before. -/
theorem loadCalibration_growsByBursts (p : Params) (s : State) :
    GrowsByBursts s.bus (loadCalibration p s).bus := by
  rcases loadCalibration_cases s with h1 | ⟨b1, h1, h2⟩ | ⟨b1, b2, h1, h2, h3⟩ | ⟨b1, b2, b3, h1, h2, h3⟩
  · exact ⟨[.memRead 0x88 24], by rw [loadCalibration_fail1 h1]; rfl, by simp [BurstTransaction]⟩
  · exact ⟨[.memRead 0xA1 1, .memRead 0x88 24], by rw [loadCalibration_fail2 h1 h2]; rfl, by simp [BurstTransaction]⟩
  · exact ⟨[.memRead 0xE1 7, .memRead 0xA1 1, .memRead 0x88 24], by rw [loadCalibration_fail3 h1 h2 h3]; rfl,
      by simp [BurstTransaction]⟩
  · exact ⟨[.memRead 0xE1 7, .memRead 0xA1 1, .memRead 0x88 24], by rw [loadCalibration_ok h1 h2 h3]; rfl,
      by simp [BurstTransaction]⟩

/-- A command other than `LDCAL` issues no transaction. -/
theorem exec_bus_of_not_ldcal {i : Instr} {s t : State} (h : exec i s = .next t) (hi : i ≠ .ldcal) :
    t.bus = s.bus := by
  rcases exec_cases h with ⟨f, rfl⟩ | ⟨rfl, -⟩ | ⟨imm, -, -, rfl⟩ | ⟨imm, -, -, -, rfl⟩ | ⟨imm, -, -, -, rfl⟩ |
    ⟨idx, r, -, -, rfl⟩
  · rfl
  · exact absurd rfl hi
  · rfl
  · rfl
  · rfl
  · rfl

/-- A command issues none but the three bursts. -/
theorem exec_growsByBursts {i : Instr} {s t : State} (h : exec i s = .next t) : GrowsByBursts s.bus t.bus := by
  by_cases hi : i = .ldcal
  · subst hi
    obtain ⟨-, rfl⟩ := execLdcalWith_next (p := Config.params) h
    exact loadCalibration_growsByBursts Config.params s
  · rw [exec_bus_of_not_ldcal h hi]
    exact growsByBursts_refl s.bus

/-- A step issues none but the three bursts. -/
theorem step_growsByBursts {s t : State} (h : step s = .next t) : GrowsByBursts s.bus t.bus := by
  rcases step_cases h with ⟨-, rfl⟩ | ⟨rest, -, rfl⟩ | ⟨w, rest, e, -, -, rfl⟩ | ⟨w, rest, i, -, -, hexec⟩
  · exact growsByBursts_refl _
  · exact growsByBursts_refl _
  · exact growsByBursts_refl _
  · exact (exec_growsByBursts hexec :)

/-- Where the bus grew by bursts only, a write on it was there before. -/
theorem memWrite_mem_of_growsByBursts {before after : List Transaction} {a : Addr} {v : Byte}
    (h : GrowsByBursts before after) (hw : .memWrite a v ∈ after) : .memWrite a v ∈ before := by
  obtain ⟨issued, rfl, hbursts⟩ := h
  rw [List.mem_append] at hw
  exact hw.resolve_left fun hissued => not_burstTransaction_memWrite a v (hbursts _ hissued)

/-- Settles O56: the transactions that commands and steps add to the bus are bursts, and no write is one. -/
theorem noCommandWritesTheSensor : Obligations.NoCommandWritesTheSensor :=
  ⟨fun _ _ _ h _ _ => memWrite_mem_of_growsByBursts (exec_growsByBursts h),
    fun _ _ h _ _ => memWrite_mem_of_growsByBursts (step_growsByBursts h)⟩

end Sys2Proof.Machine
end

section
/-! SUPPORT. Proofs of the statements on the calibration unpacker: the extractors, the nibble-packed patterns, and loading again (40_calibration_unpack.md R110 to R115, R121, R124). -/

namespace Sys2Proof.Machine

/-! ### Loading again (40_calibration_unpack.md R121) -/

/-- A load is calibrated and answers `OK` after three answered bursts, or uncalibrated and answers `TRANSPORT`. -/
theorem loadCalibration_outcome (p : Params) (s : State) :
    ((∃ b1 b2 b3, burstAnswer1 s = some b1 ∧ burstAnswer2 s = some b2 ∧ burstAnswer3 s = some b3) ∧
      (loadCalibration p s).calValid = true ∧ (loadCalibration p s).responses = okWord 0 :: s.responses) ∨
    ((loadCalibration p s).calValid = false ∧ (loadCalibration p s).responses = transportWord :: s.responses) := by
  rcases loadCalibration_cases s with h1 | ⟨b1, h1, h2⟩ | ⟨b1, b2, h1, h2, h3⟩ | ⟨b1, b2, b3, h1, h2, h3⟩
  · rw [loadCalibration_fail1 h1]; exact .inr ⟨rfl, rfl⟩
  · rw [loadCalibration_fail2 h1 h2]; exact .inr ⟨rfl, rfl⟩
  · rw [loadCalibration_fail3 h1 h2 h3]; exact .inr ⟨rfl, rfl⟩
  · rw [loadCalibration_ok h1 h2 h3]; exact .inl ⟨⟨b1, b2, b3, h1, h2, h3⟩, rfl, rfl⟩

/-- A load that ends calibrated takes no notice of the file that stood before. -/
theorem loadCalibration_with_coef {p : Params} {s : State} (hcal : (loadCalibration p s).calValid = true) (c : Coefs) :
    loadCalibration p { s with coef := c } = loadCalibration p s := by
  rcases loadCalibration_outcome p s with ⟨⟨b1, b2, b3, h1, h2, h3⟩, -⟩ | ⟨huncal, -⟩
  · rw [loadCalibration_ok h1 h2 h3, loadCalibration_ok (s := { s with coef := c }) h1 h2 h3,
      committed_overwrites p _ _ _ c s.coef]
  · rw [huncal] at hcal
    cases hcal

/-- A load that answers `TRANSPORT` leaves the block uncalibrated. -/
theorem loadCalibration_uncalibrated_of_transportWord {p : Params} {s : State}
    (h : (loadCalibration p s).responses = transportWord :: s.responses) : (loadCalibration p s).calValid = false := by
  rcases loadCalibration_outcome p s with ⟨-, -, hok⟩ | ⟨huncal, -⟩
  · rw [hok, List.cons.injEq] at h
    exact absurd h.1 (by decide)
  · exact huncal

/-- The state after a load whose bursts succeed, under the default parameters. -/
theorem exec_ldcal_of_burstsSucceed {s : State} {B1 B2 B3 : Addr → Byte} {q : List TransportAnswer} {k : Nat}
    (h : BurstsSucceed s B1 B2 B3 q k) :
    exec .ldcal s = .next { s with
      coef := loaded B1 B2 B3
      calValid := true
      transport := q
      freeIdx := k
      bus := .memRead 0xE1 7 :: .memRead 0xA1 1 :: .memRead 0x88 24 :: s.bus
      responses := okWord 0 :: s.responses } := by
  have hcoef := loadCalibration_coef_of_burstsSucceed h
  obtain ⟨hanswered, h1, h2, h3, rfl, rfl⟩ := h.answers
  have hload : exec .ldcal s = .next (loadCalibration Config.params s) := execLdcalWith_of_answered hanswered
  rw [loadCalibration_ok h1 h2 h3] at hload hcoef
  rw [hload, ← hcoef]
  rfl

/-- Settles O24: a load that succeeds takes no notice of the old file, and its bursts' bytes alone give the new one, from
whatever state it starts; a `TRANSPORT` answer comes with `CAL_VALID = 0`. -/
theorem reloadOverwritesEverything : Obligations.ReloadOverwritesEverything := by
  refine ⟨fun s t c h hcal => ?_, fun s B1 B2 B3 q q' k k' h h' => ?_, fun s t _ _ B1 B2 B3 q k h => ?_,
    fun s t _ h hresp => ?_⟩
  · obtain ⟨hanswered, rfl⟩ := execLdcalWith_next (p := Config.params) h
    rw [← loadCalibration_with_coef hcal c]
    exact execLdcalWith_of_answered hanswered
  · exact ⟨_, _, exec_ldcal_of_burstsSucceed h, exec_ldcal_of_burstsSucceed h', rfl, rfl, rfl, rfl⟩
  · exact ⟨_, exec_ldcal_of_burstsSucceed h, rfl, rfl, rfl⟩
  · obtain ⟨-, rfl⟩ := execLdcalWith_next (p := Config.params) h
    exact loadCalibration_uncalibrated_of_transportWord hresp

/-! ### The extractors (40_calibration_unpack.md R110 to R113) -/

/-- `U16LE`: the low byte stands at the lower address. -/
theorem extractU16LE_toNat (B : Addr → Byte) (a : Addr) :
    (extractU16LE B a).toNat = (B a).toNat + 256 * (B (a + 1)).toNat := by
  rw [extractU16LE, BitVec.toNat_append, Nat.shiftLeft_eq, Nat.mul_comm, ← Nat.two_pow_add_eq_or_of_lt (B a).isLt,
    Nat.add_comm]

/-- `S16LE` reads the 16 bits of `U16LE` as signed. -/
theorem extractS16LE_toInt (B : Addr → Byte) (a : Addr) :
    (extractS16LE B a).toInt = sext 16 ((B a).toNat + 256 * (B (a + 1)).toNat : Nat) := by
  rw [← extractU16LE_toNat, sext_toNat (by decide)]
  rfl

/-- `S8` reads the byte as signed. -/
theorem extractS8_toInt (B : Addr → Byte) (a : Addr) : (extractS8 B a).toInt = sext 8 (B a).toNat :=
  (sext_toNat (by decide) (B a)).symm

/-- Settles O15: the integer each extractor gives, and the rows of the unpack table (R117), each of which stores an
extractor's pattern in a register of the same signedness. -/
theorem extractorsGiveTypedIntegers : Obligations.ExtractorsGiveTypedIntegers := by
  intro B a
  refine ⟨rfl, extractS8_toInt B a, extractU16LE_toNat B a, extractS16LE_toInt B a, fun p c => ?_⟩
  intro c1 c3
  and_intros <;> rfl

/-! ### The nibble-packed patterns (40_calibration_unpack.md R114, R115, R124) -/

/-- The low nibble of a byte, as the document masks it out. -/
theorem lowNibble_toNat (b : Byte) : (b.extractLsb' 0 4).toNat = b.toNat &&& 0x0F := by
  rw [BitVec.extractLsb'_toNat, Nat.shiftRight_zero]
  exact (Nat.and_two_pow_sub_one_eq_mod b.toNat 4).symm

/-- The high nibble of a byte, as the document shifts it down. -/
theorem highNibble_toNat (b : Byte) : (b.extractLsb' 4 4).toNat = b.toNat >>> 4 := by
  have hb := b.isLt
  rw [BitVec.extractLsb'_toNat, Nat.shiftRight_eq_div_pow]
  omega

/-- Settles O16: a pattern is a byte put above a nibble of the byte at 0xE5. -/
theorem nibblePatternsFollowTheFormulas : Obligations.NibblePatternsFollowTheFormulas := by
  intro B
  refine ⟨?_, ?_, BitVec.extractLsb'_append_eq_left, BitVec.extractLsb'_append_eq_right,
    BitVec.extractLsb'_append_eq_left, BitVec.extractLsb'_append_eq_right⟩
  · rw [nibH4, BitVec.toNat_append, lowNibble_toNat]
  · rw [nibH5, BitVec.toNat_append, highNibble_toNat]

/-- A pattern with bit 11 clear is stored as its own value under either setting of `H45_SIGN_EXTEND` (R116). -/
theorem extendNibble_toInt_of_lt (p : Params) {pattern : BitVec 12} (h : pattern.toNat < 2048) :
    (extendNibble p pattern).toInt = pattern.toNat := by
  unfold extendNibble
  split
  · rw [BitVec.toInt_signExtend_of_le (by decide), BitVec.toInt_eq_toNat_of_lt (by omega)]
  · have hwidth : (pattern.setWidth 16).toNat = pattern.toNat := BitVec.toNat_setWidth_of_le (by decide)
    rw [BitVec.toInt_eq_toNat_of_lt (by omega), hwidth]

/-- Settles O17: the formulas at the example's bytes give two patterns with bit 11 clear. -/
theorem nibbleExampleUnpacks : Obligations.NibbleExampleUnpacks := by
  intro B p c hE4 hE5 hE6
  obtain ⟨hH4, hH5, -⟩ := nibblePatternsFollowTheFormulas B
  have h4 : (nibH4 B).toNat = 0x124 := by rw [hH4, hE4, hE5]; rfl
  have h5 : (nibH5 B).toNat = 0x563 := by rw [hH5, hE6, hE5]; rfl
  refine ⟨h4, h5, ?_, ?_⟩
  · exact (extendNibble_toInt_of_lt p (by omega)).trans (congrArg Nat.cast h4)
  · exact (extendNibble_toInt_of_lt p (by omega)).trans (congrArg Nat.cast h5)

end Sys2Proof.Machine
end

section
/-! SUPPORT. Proofs of the statements on what `COMPT` computes and on what its result depends and stands for (41_compensate_temperature.md R140, R142, R146). -/

namespace Sys2Proof.Machine

/-! ### One `COMPT` as an update by words -/

/-- The integer formula and the word formula for the value answered agree. -/
theorem temperature_toInt (tf : Word) : temperature tf.toInt = (temperatureWord tf).toInt := by
  rw [temperatureWord, ← asr_toInt, ← add_toInt, ← mul_toInt]
  rfl

/-- What a `COMPT` on a calibrated block does, in the words of the document's printed algorithm. -/
theorem exec_compt_calibrated {s : State} (hcal : s.calValid = true) (imm : Word) :
    exec (.compt imm) s = .next { s with
      tFine := fineTemperatureWord s.coef imm
      tfSet := true
      tOut := temperatureWord (fineTemperatureWord s.coef imm)
      responses := okWord (temperatureWord (fineTemperatureWord s.coef imm)) :: s.responses } := by
  have hexec : exec (.compt imm) s = .next (commitTemperature (s.newFine imm) s) := execCompt_calibrated hcal imm
  rw [hexec, commitTemperature_eq, newFine_eq_toInt, temperature_toInt, u32_toInt32, u32_toInt32]
  rfl

/-- The new `T_FINE` depends on no coefficient but `T1`, `T2`, `T3`. -/
theorem fineTemperatureWord_congr {c c' : Coefs} (h1 : c.t1 = c'.t1) (h2 : c.t2 = c'.t2) (h3 : c.t3 = c'.t3)
    (imm : Word) : fineTemperatureWord c imm = fineTemperatureWord c' imm := by
  simp only [fineTemperatureWord, h1, h2, h3]

/-! ### The two differences fit in 32 bits -/

/-- The operand shifted right by 3, less twice an unsigned coefficient, is formed without wrapping. -/
theorem sub_asr3_shl1_exact (imm : Word) (T1 : Half) :
    sub 32 (asr (immOperand imm) 3) (shl 32 T1.toNat 1) = imm.toInt / 8 - 2 * (T1.toNat : Int) := by
  have hT1 := T1.isLt
  have hlo := imm.le_toInt
  have hhi := imm.toInt_lt
  have hshl : shl 32 T1.toNat 1 = T1.toNat * 2 := wrap_of_fits (by omega) (by omega)
  rw [hshl, mul_comm]
  exact wrap_of_fits (by rw [asr, immOperand]; omega) (by rw [asr, immOperand]; omega)

/-- The operand shifted right by 4, less an unsigned coefficient, is formed without wrapping. -/
theorem sub_asr4_exact (imm : Word) (T1 : Half) :
    sub 32 (asr (immOperand imm) 4) T1.toNat = imm.toInt / 16 - (T1.toNat : Int) := by
  have hT1 := T1.isLt
  have hlo := imm.le_toInt
  have hhi := imm.toInt_lt
  exact wrap_of_fits (by rw [asr, immOperand]; omega) (by rw [asr, immOperand]; omega)

/-! ### The last step does not wrap (R143) -/

/-- `var1` is a 32-bit value shifted right by 11. -/
theorem tempVar1_bounds (T1 T2 adc : Int) :
    -1048576 ≤ tempVar1 T1 T2 adc ∧ tempVar1 T1 T2 adc ≤ 1048575 := by
  have h := wrap32_bounds (sub 32 (asr adc 3) (shl 32 T1 1) * T2)
  simp only [tempVar1, mul, asr] at h ⊢
  omega

/-- `var2` is a 32-bit value shifted right by 14. -/
theorem tempVar2_bounds (T1 T3 adc : Int) :
    -131072 ≤ tempVar2 T1 T3 adc ∧ tempVar2 T1 T3 adc ≤ 131071 := by
  have h := wrap32_bounds (asr (mul 32 (sub 32 (asr adc 4) T1) (sub 32 (asr adc 4) T1)) 12 * T3)
  simp only [tempVar2, mul, asr] at h ⊢
  omega

/-- The sum of `var1` and `var2` does not wrap. -/
theorem fineTemperature_eq_add (T1 T2 T3 adc : Int) :
    fineTemperature T1 T2 T3 adc = tempVar1 T1 T2 adc + tempVar2 T1 T3 adc := by
  have h1 := tempVar1_bounds T1 T2 adc
  have h2 := tempVar2_bounds T1 T3 adc
  exact wrap_of_fits (by omega) (by omega)

/-- `T_FINE` stays within the sums of the two bounds. -/
theorem fineTemperature_bounds (T1 T2 T3 adc : Int) :
    -1179648 ≤ fineTemperature T1 T2 T3 adc ∧ fineTemperature T1 T2 T3 adc ≤ 1179646 := by
  have h1 := tempVar1_bounds T1 T2 adc
  have h2 := tempVar2_bounds T1 T3 adc
  rw [fineTemperature_eq_add]
  omega

/-- Within these bounds the last step is a division with floor. -/
theorem temperature_eq_floor {tf : Int} (lo : -1179648 ≤ tf) (hi : tf ≤ 1179646) :
    temperature tf = (5 * tf + 128) / 256 := by
  have hmul : mul 32 tf 5 = tf * 5 := wrap_of_fits (by omega) (by omega)
  have hadd : add 32 (tf * 5) 128 = tf * 5 + 128 := wrap_of_fits (by omega) (by omega)
  rw [temperature, hmul, hadd, asr, mul_comm]
  rfl

/-- The value answered is the floor of the new `T_FINE` scaled by 5/256, for every operand and coefficient set. -/
theorem temperatureWord_fineTemperatureWord_toInt (s : State) (imm : Word) :
    (temperatureWord (fineTemperatureWord s.coef imm)).toInt =
      (5 * (fineTemperatureWord s.coef imm).toInt + 128) / 256 := by
  rw [← temperature_toInt, ← newFine_eq_toInt]
  obtain ⟨lo, hi⟩ := fineTemperature_bounds (s.coef.value .t1) (s.coef.value .t2) (s.coef.value .t3) (immOperand imm)
  exact temperature_eq_floor lo hi

/-! ### The statements -/

/-- Settles O28: the integer meaning is the word algorithm, a clear `CAL_VALID` raises the fault, the two differences are
exact, and the worked example evaluates. -/
theorem comptComputesTemperature : Obligations.ComptComputesTemperature := by
  refine ⟨fun _ => rfl, fun _ imm hcal => exec_compt_calibrated hcal imm,
    fun _ imm hcal => execCompt_uncalibrated hcal imm,
    fun c imm => ⟨sub_asr3_shl1_exact imm c.t1, sub_asr4_exact imm c.t1⟩, fun c h1 h2 h3 => ?_⟩
  simp only [Coefs.value, fineTemperatureWord, h1, h2, h3]
  decide

/-- Settles O31: both states store and answer the one word that the operand, `T1`, `T2` and `T3` determine. -/
theorem comptIsPure : Obligations.ComptIsPure := by
  intro s s' imm hcal hcal' h1 h2 h3
  have hfine := fineTemperatureWord_congr h1 h2 h3 imm
  refine ⟨_, _, okWord (temperatureWord (fineTemperatureWord s.coef imm)), exec_compt_calibrated hcal imm,
    exec_compt_calibrated hcal' imm, hfine, ?_, rfl, ?_⟩
  · exact congrArg temperatureWord hfine
  · rw [hfine]

/-- Settles O33: the last step is a floor because it does not wrap, and its result is the value answered. -/
theorem temperatureHasHundredthResolution : Obligations.TemperatureHasHundredthResolution := by
  refine ⟨fun s imm hcal => ?_, fun _ => rfl, ?_⟩
  · exact ⟨_, exec_compt_calibrated hcal imm, temperatureWord_fineTemperatureWord_toInt s imm, rfl⟩
  · have hvalue : (5123 : Word).toInt = 5123 := by decide
    rw [degreesCelsius, hvalue]
    norm_num

end Sys2Proof.Machine
end

section
/-! SUPPORT. Proof of the statement on where a failing `LDCAL` stops and what it keeps (60_exceptions.md R182). -/

namespace Sys2Proof.Machine

/-! ### One state for each burst that can fail first -/

/-- Burst 1 fails: no coefficient is committed and no later burst is issued. -/
theorem exec_ldcal_of_burst1_fails {s : State} {q1 : List TransportAnswer} {k1 : Nat}
    (h1 : EnvironmentAnswers s.transport s.freeIdx none q1 k1) :
    exec .ldcal s = .next { s with
      calValid := false, transport := q1, freeIdx := k1
      bus := .memRead 0x88 24 :: s.bus
      responses := transportWord :: s.responses } := by
  have hanswered : transportHangs 3 s.transport = false := transportHangs_of_failure h1
  have hload : exec .ldcal s = .next (loadCalibration Config.params s) := execLdcalWith_of_answered hanswered
  obtain ⟨a1, rfl, rfl, -⟩ := environmentAnswers_cases h1
  rw [hload, loadCalibration_fail1 (a1 _ _)]
  rfl

/-- Burst 2 is the first to fail: `C[0..11]` are committed and burst 3 is not issued. -/
theorem exec_ldcal_of_burst2_fails {s : State} {B1 : Addr → Byte} {q1 q2 : List TransportAnswer} {k1 k2 : Nat}
    (h1 : EnvironmentAnswers s.transport s.freeIdx (some B1) q1 k1) (h2 : EnvironmentAnswers q1 k1 none q2 k2) :
    exec .ldcal s = .next { s with
      coef := loadedFirst B1 s.coef
      calValid := false, transport := q2, freeIdx := k2
      bus := .memRead 0xA1 1 :: .memRead 0x88 24 :: s.bus
      responses := transportWord :: s.responses } := by
  have hanswered : transportHangs 3 s.transport = false :=
    transportHangs_of_success h1 (transportHangs_of_failure h2)
  have hload : exec .ldcal s = .next (loadCalibration Config.params s) := execLdcalWith_of_answered hanswered
  obtain ⟨a1, rfl, rfl, -⟩ := environmentAnswers_cases h1
  obtain ⟨a2, rfl, rfl, -⟩ := environmentAnswers_cases h2
  rw [hload, loadCalibration_fail2 (a1 _ _) (a2 _ _), commitBurst1_bytesFrom]
  rfl

/-- Burst 3 is the first to fail: `C[0..12]` are committed. -/
theorem exec_ldcal_of_burst3_fails {s : State} {B1 B2 : Addr → Byte} {q1 q2 q3 : List TransportAnswer}
    {k1 k2 k3 : Nat} (h1 : EnvironmentAnswers s.transport s.freeIdx (some B1) q1 k1)
    (h2 : EnvironmentAnswers q1 k1 (some B2) q2 k2) (h3 : EnvironmentAnswers q2 k2 none q3 k3) :
    exec .ldcal s = .next { s with
      coef := loadedSecond B2 (loadedFirst B1 s.coef)
      calValid := false, transport := q3, freeIdx := k3
      bus := .memRead 0xE1 7 :: .memRead 0xA1 1 :: .memRead 0x88 24 :: s.bus
      responses := transportWord :: s.responses } := by
  have hanswered : transportHangs 3 s.transport = false :=
    transportHangs_of_success h1 (transportHangs_of_success h2 (transportHangs_of_failure h3))
  have hload : exec .ldcal s = .next (loadCalibration Config.params s) := execLdcalWith_of_answered hanswered
  obtain ⟨a1, rfl, rfl, -⟩ := environmentAnswers_cases h1
  obtain ⟨a2, rfl, rfl, -⟩ := environmentAnswers_cases h2
  obtain ⟨a3, rfl, rfl, -⟩ := environmentAnswers_cases h3
  rw [hload, loadCalibration_fail3 (a1 _ _) (a2 _ _) (a3 _ _), commitBurst1_bytesFrom, commitBurst2_bytesFrom]
  rfl

/-- Settles O21: the first burst to fail decides the state, whether its answer is listed or free. -/
theorem ldcalFailureKeepsEarlierBursts : Obligations.LdcalFailureKeepsEarlierBursts :=
  fun _ _ _ _ _ _ _ _ _ =>
    ⟨exec_ldcal_of_burst1_fails, exec_ldcal_of_burst2_fails, exec_ldcal_of_burst3_fails⟩

end Sys2Proof.Machine
end

section
/-! SUPPORT. Proofs of the statements on decoding, encoding and the opcode table (30_encoding.md sections 1, 3, 5). -/

namespace Sys2Proof

/-! ### The decoder, one equation per opcode (30_encoding.md R83, R86, R87) -/

theorem decode_of_op_ldcal {w : Command} (h : w.op = 0x01) :
    decode w = if w.arg ≠ 0 then .error (.ldcalOperand w.arg) else .ok .ldcal := by
  rw [decode, if_pos h]

theorem decode_of_op_compt {w : Command} (h : w.op = 0x02) : decode w = .ok (.compt w.arg) := by
  simp [decode, h]

theorem decode_of_op_compp {w : Command} (h : w.op = 0x03) : decode w = .ok (.compp w.arg) := by
  simp [decode, h]

theorem decode_of_op_comph {w : Command} (h : w.op = 0x04) : decode w = .ok (.comph w.arg) := by
  simp [decode, h]

theorem decode_of_op_rdreg {w : Command} (h : w.op = 0x05) (hmbz : w.arg.extractLsb' 8 24 = 0)
    (hidx : w.arg.extractLsb' 0 8 ≤ lastRegIndex) : decode w = .ok (.rdreg (w.arg.extractLsb' 0 8)) := by
  simp [decode, h, hmbz, BitVec.not_lt.mpr hidx]

/-- Everything a word that decodes can be. -/
theorem decode_ok_cases {w : Command} {i : Instr} (h : decode w = .ok i) :
    (w.op = 0x01 ∧ w.arg = 0 ∧ i = .ldcal) ∨ (w.op = 0x02 ∧ i = .compt w.arg) ∨
      (w.op = 0x03 ∧ i = .compp w.arg) ∨ (w.op = 0x04 ∧ i = .comph w.arg) ∨
      (w.op = 0x05 ∧ w.arg.extractLsb' 8 24 = 0 ∧ w.arg.extractLsb' 0 8 ≤ lastRegIndex ∧
        i = .rdreg (w.arg.extractLsb' 0 8)) := by
  unfold decode at h
  split_ifs at h with h1 harg h2 h3 h4 h5 hmbz hidx
  · cases h; exact .inl ⟨h1, not_not.mp harg, rfl⟩
  · cases h; exact .inr (.inl ⟨h2, rfl⟩)
  · cases h; exact .inr (.inr (.inl ⟨h3, rfl⟩))
  · cases h; exact .inr (.inr (.inr (.inl ⟨h4, rfl⟩)))
  · cases h; exact .inr (.inr (.inr (.inr ⟨h5, not_not.mp hmbz, BitVec.not_lt.mp hidx, rfl⟩)))

/-- A well-formed command is decoded from its own encoding. -/
theorem decode_encode {i : Instr} (h : i.wellFormed = true) : decode (encode i) = .ok i := by
  cases i with
  | ldcal => rw [decode_of_op_ldcal (encode_op _), encode_arg]; rfl
  | compt imm => rw [decode_of_op_compt (encode_op _), encode_arg]; rfl
  | compp imm => rw [decode_of_op_compp (encode_op _), encode_arg]; rfl
  | comph imm => rw [decode_of_op_comph (encode_op _), encode_arg]; rfl
  | rdreg idx =>
    have hidx : idx ≤ lastRegIndex := of_decide_eq_true h
    have hmbz : (encode (.rdreg idx)).arg.extractLsb' 8 24 = 0 := by
      rw [encode_arg]; exact formatR_mustBeZero idx
    have hlow : (encode (.rdreg idx)).arg.extractLsb' 0 8 = idx := by
      rw [encode_arg]; exact formatR_index idx
    rw [decode_of_op_rdreg (encode_op _) hmbz (hlow.symm ▸ hidx), hlow]

/-- A word with the fields of a command is the encoding of that command. -/
theorem encode_eq_of_fields {i : Instr} {w : Command} (hop : w.op = i.opcode) (harg : w.arg = i.operandField) :
    encode i = w := by
  rw [encode, ← hop, ← harg, op_append_arg]

/-- A word that decodes is the encoding of a well-formed command. -/
theorem encode_of_decode {w : Command} {i : Instr} (h : decode w = .ok i) : i.wellFormed = true ∧ encode i = w := by
  rcases decode_ok_cases h with ⟨hop, harg, rfl⟩ | ⟨hop, rfl⟩ | ⟨hop, rfl⟩ | ⟨hop, rfl⟩ | ⟨hop, hmbz, hidx, rfl⟩
  · exact ⟨rfl, encode_eq_of_fields hop harg⟩
  · exact ⟨rfl, encode_eq_of_fields hop rfl⟩
  · exact ⟨rfl, encode_eq_of_fields hop rfl⟩
  · exact ⟨rfl, encode_eq_of_fields hop rfl⟩
  · refine ⟨decide_eq_true hidx, encode_eq_of_fields hop ?_⟩
    rw [Instr.operandField, ← hmbz, arg_split]

/-- Settles O1: each command's opcode and operand field are read back from its encoding. -/
theorem decodeInvertsEncode : Obligations.DecodeInvertsEncode := fun _ => decode_encode

/-- Settles O2: the fields that select a command are the fields its encoding writes. -/
theorem encodeInvertsDecode : Obligations.EncodeInvertsDecode := fun _ _ => encode_of_decode

/-! ### The fields read arithmetically -/

theorem op_eq_iff (w : Command) (x : Byte) : w.op = x ↔ w.toNat / 2 ^ 32 = x.toNat := by
  rw [← BitVec.toNat_inj, op_toNat]

theorem arg_eq_zero_iff (w : Command) : w.arg = 0 ↔ w.toNat % 2 ^ 32 = 0 := by
  rw [← BitVec.toNat_inj, arg_toNat]; rfl

theorem arg_eq_ofNat (w : Command) : w.arg = BitVec.ofNat 32 w.toNat :=
  BitVec.eq_of_toNat_eq (by rw [arg_toNat, BitVec.toNat_ofNat])

theorem arg_mustBeZero_toNat (w : Command) : (w.arg.extractLsb' 8 24).toNat = w.toNat % 2 ^ 32 / 256 := by
  rw [BitVec.extractLsb'_toNat, arg_toNat, Nat.shiftRight_eq_div_pow]
  omega

theorem arg_index_toNat (w : Command) : (w.arg.extractLsb' 0 8).toNat = w.toNat % 256 := by
  rw [BitVec.extractLsb'_toNat, arg_toNat, Nat.shiftRight_zero]
  omega

theorem arg_index_eq_ofNat (w : Command) : w.arg.extractLsb' 0 8 = BitVec.ofNat 8 w.toNat :=
  BitVec.eq_of_toNat_eq (by rw [arg_index_toNat, BitVec.toNat_ofNat])

theorem arg_mustBeZero_iff (w : Command) : w.arg.extractLsb' 8 24 = 0 ↔ w.toNat % 2 ^ 32 / 256 = 0 := by
  rw [← BitVec.toNat_inj, arg_mustBeZero_toNat]; rfl

theorem arg_index_le_iff (w : Command) : w.arg.extractLsb' 0 8 ≤ lastRegIndex ↔ w.toNat % 256 ≤ 0x16 := by
  rw [BitVec.le_def, arg_index_toNat]; rfl

/-- Settles O3: each clause fixes the opcode field, and the operand is the word's low bits. -/
theorem legalWordsSelectTheirOperation : Obligations.LegalWordsSelectTheirOperation := by
  intro w
  refine ⟨fun hop harg => ?_, fun hop => ?_, fun hop => ?_, fun hop => ?_, fun hop hidx => ?_⟩
  · rw [decode_of_op_ldcal ((op_eq_iff w _).mpr hop), if_neg (not_not.mpr ((arg_eq_zero_iff w).mpr harg))]
  · rw [decode_of_op_compt ((op_eq_iff w _).mpr hop), arg_eq_ofNat]
  · rw [decode_of_op_compp ((op_eq_iff w _).mpr hop), arg_eq_ofNat]
  · rw [decode_of_op_comph ((op_eq_iff w _).mpr hop), arg_eq_ofNat]
  · rw [decode_of_op_rdreg ((op_eq_iff w _).mpr hop) ((arg_mustBeZero_iff w).mpr (by omega))
      ((arg_index_le_iff w).mpr (by omega)), arg_index_eq_ofNat]

/-- The words that decode, by their fields read arithmetically. -/
theorem exists_decode_ok_iff (w : Command) :
    (∃ i, decode w = .ok i) ↔
      (w.toNat / 2 ^ 32 = 1 ∧ w.toNat % 2 ^ 32 = 0) ∨ w.toNat / 2 ^ 32 = 2 ∨ w.toNat / 2 ^ 32 = 3 ∨
        w.toNat / 2 ^ 32 = 4 ∨ (w.toNat / 2 ^ 32 = 5 ∧ w.toNat % 2 ^ 32 ≤ 0x16) := by
  constructor
  · rintro ⟨i, h⟩
    rcases decode_ok_cases h with ⟨hop, harg, -⟩ | ⟨hop, -⟩ | ⟨hop, -⟩ | ⟨hop, -⟩ | ⟨hop, hmbz, hidx, -⟩
    · exact .inl ⟨(op_eq_iff w _).mp hop, (arg_eq_zero_iff w).mp harg⟩
    · exact .inr (.inl ((op_eq_iff w _).mp hop))
    · exact .inr (.inr (.inl ((op_eq_iff w _).mp hop)))
    · exact .inr (.inr (.inr (.inl ((op_eq_iff w _).mp hop))))
    · have hmbz' := (arg_mustBeZero_iff w).mp hmbz
      have hidx' := (arg_index_le_iff w).mp hidx
      exact .inr (.inr (.inr (.inr ⟨(op_eq_iff w _).mp hop, by omega⟩)))
  · obtain ⟨hldcal, hcompt, hcompp, hcomph, hrdreg⟩ := legalWordsSelectTheirOperation w
    rintro (⟨hop, harg⟩ | hop | hop | hop | ⟨hop, hidx⟩)
    · exact ⟨_, hldcal hop harg⟩
    · exact ⟨_, hcompt hop⟩
    · exact ⟨_, hcompp hop⟩
    · exact ⟨_, hcomph hop⟩
    · exact ⟨_, hrdreg hop hidx⟩

/-- A word is refused exactly when it does not decode. -/
theorem exists_decode_error_iff (w : Command) : (∃ e, decode w = .error e) ↔ ¬ ∃ i, decode w = .ok i := by
  cases decode w <;> simp

/-- Settles O4: the five classes are what the legal words leave. -/
theorem illegalWordsAreExactlyTheFiveClasses : Obligations.IllegalWordsAreExactlyTheFiveClasses := by
  refine ⟨fun w => ?_, ⟨.reservedOpcode 0x00, by decide⟩, ⟨.reservedOpcode 0xFF, by decide⟩⟩
  rw [exists_decode_error_iff, exists_decode_ok_iff]
  omega

/-! ### The opcode table (30_encoding.md section 3) -/

/-- A word matches a row when both of its fields do. -/
theorem covers_iff (r : OpcodeRow) (w : Command) :
    r.covers w = true ↔ w.op &&& r.mask.op = r.pattern.op ∧ w.arg &&& r.mask.arg = r.pattern.arg := by
  have hop : Command.op (w &&& r.mask) = w.op &&& r.mask.op := BitVec.extractLsb'_and
  have harg : Command.arg (w &&& r.mask) = w.arg &&& r.mask.arg := BitVec.extractLsb'_and
  rw [OpcodeRow.covers, beq_iff_eq, ← hop, ← harg]
  constructor
  · intro h
    rw [h]
    exact ⟨rfl, rfl⟩
  · rintro ⟨ho, ha⟩
    rw [← op_append_arg (w &&& r.mask), ho, ha, op_append_arg]

/-- Every row fixes the whole opcode field. -/
theorem mask_op_of_mem : ∀ r ∈ opcodeTable, r.mask.op = BitVec.allOnes 8 := by decide

/-- A word that matches a row has the row's opcode. -/
theorem op_eq_of_covers {r : OpcodeRow} (hr : r ∈ opcodeTable) {w : Command} (h : r.covers w = true) :
    w.op = r.pattern.op := by
  have hop := ((covers_iff r w).mp h).1
  rwa [mask_op_of_mem r hr, BitVec.and_allOnes] at hop

/-- No two rows have the same opcode. -/
theorem row_eq_of_pattern_op :
    ∀ r ∈ opcodeTable, ∀ r' ∈ opcodeTable, r.pattern.op = r'.pattern.op → r = r' := by decide

/-- A row that shares its opcode with a command carries the command's mnemonic. -/
theorem mnemonic_eq_of_pattern_op {r : OpcodeRow} (hr : r ∈ opcodeTable) {i : Instr} (h : r.pattern.op = i.opcode) :
    r.mnemonic = i.mnemonic := by
  have htable : ∀ r ∈ opcodeTable, (r.pattern.op, r.mnemonic) ∈
      [((0x01 : Byte), "LDCAL"), (0x02, "COMPT"), (0x03, "COMPP"), (0x04, "COMPH"), (0x05, "RDREG")] := by decide
  have hrow := htable r hr
  rw [h] at hrow
  cases i <;> simpa [Instr.opcode, Instr.mnemonic] using hrow

/-- A row that masks the whole operand field to zero. -/
theorem covers_iff_of_formatN {r : OpcodeRow} (hr : r ∈ opcodeTable) (hm : r.mask.arg = BitVec.allOnes 32)
    (hp : r.pattern.arg = 0) (w : Command) :
    r.covers w = true ↔ w.toNat / 2 ^ 32 = r.pattern.op.toNat ∧ w.toNat % 2 ^ 32 = 0 := by
  rw [covers_iff, mask_op_of_mem r hr, BitVec.and_allOnes, hm, BitVec.and_allOnes, hp, op_eq_iff, arg_eq_zero_iff]

/-- A row that leaves the operand field free. -/
theorem covers_iff_of_formatI {r : OpcodeRow} (hr : r ∈ opcodeTable) (hm : r.mask.arg = 0) (hp : r.pattern.arg = 0)
    (w : Command) : r.covers w = true ↔ w.toNat / 2 ^ 32 = r.pattern.op.toNat := by
  have hzero : w.arg &&& 0 = 0 := BitVec.and_zero
  rw [covers_iff, mask_op_of_mem r hr, BitVec.and_allOnes, hm, hzero, hp, op_eq_iff, and_iff_left rfl]

/-- Masking the low byte away leaves zero exactly when the must-be-zero field is zero. -/
theorem and_formatR_mask_eq_zero_iff (a : Word) : a &&& 0xFFFFFF00 = 0 ↔ a.extractLsb' 8 24 = 0 := by
  have hhigh : (a &&& 0xFFFFFF00).extractLsb' 8 24 = a.extractLsb' 8 24 := by
    rw [BitVec.extractLsb'_and]
    exact BitVec.and_allOnes
  have hlow : (a &&& 0xFFFFFF00).extractLsb' 0 8 = 0 := by
    rw [BitVec.extractLsb'_and]
    exact BitVec.and_zero
  constructor
  · intro h
    rw [← hhigh, h]
    rfl
  · intro h
    rw [← arg_split (a &&& 0xFFFFFF00), hhigh, hlow, h]
    rfl

/-- A row that masks the operand field to zero but for its low byte. -/
theorem covers_iff_of_formatR {r : OpcodeRow} (hr : r ∈ opcodeTable) (hm : r.mask.arg = 0xFFFFFF00)
    (hp : r.pattern.arg = 0) (w : Command) :
    r.covers w = true ↔ w.toNat / 2 ^ 32 = r.pattern.op.toNat ∧ w.toNat % 2 ^ 32 / 256 = 0 := by
  rw [covers_iff, mask_op_of_mem r hr, BitVec.and_allOnes, hm, hp, and_formatR_mask_eq_zero_iff, op_eq_iff,
    arg_mustBeZero_iff]

/-- The words that match a row with a property. -/
theorem exists_covers_iff (w : Command) (P : String → Prop) :
    (∃ r ∈ opcodeTable, r.covers w = true ∧ P r.mnemonic) ↔
      ((w.toNat / 2 ^ 32 = 1 ∧ w.toNat % 2 ^ 32 = 0) ∧ P "LDCAL") ∨
      (w.toNat / 2 ^ 32 = 2 ∧ P "COMPT") ∨ (w.toNat / 2 ^ 32 = 3 ∧ P "COMPP") ∨ (w.toNat / 2 ^ 32 = 4 ∧ P "COMPH") ∨
      ((w.toNat / 2 ^ 32 = 5 ∧ w.toNat % 2 ^ 32 / 256 = 0) ∧ P "RDREG") := by
  have h1 : OpcodeRow.covers ⟨"LDCAL", 0xFFFFFFFFFF, 0x0100000000⟩ w = true ↔
      w.toNat / 2 ^ 32 = 1 ∧ w.toNat % 2 ^ 32 = 0 := covers_iff_of_formatN (by decide) (by decide) (by decide) w
  have h2 : OpcodeRow.covers ⟨"COMPT", 0xFF00000000, 0x0200000000⟩ w = true ↔ w.toNat / 2 ^ 32 = 2 :=
    covers_iff_of_formatI (by decide) (by decide) (by decide) w
  have h3 : OpcodeRow.covers ⟨"COMPP", 0xFF00000000, 0x0300000000⟩ w = true ↔ w.toNat / 2 ^ 32 = 3 :=
    covers_iff_of_formatI (by decide) (by decide) (by decide) w
  have h4 : OpcodeRow.covers ⟨"COMPH", 0xFF00000000, 0x0400000000⟩ w = true ↔ w.toNat / 2 ^ 32 = 4 :=
    covers_iff_of_formatI (by decide) (by decide) (by decide) w
  have h5 : OpcodeRow.covers ⟨"RDREG", 0xFFFFFFFF00, 0x0500000000⟩ w = true ↔
      w.toNat / 2 ^ 32 = 5 ∧ w.toNat % 2 ^ 32 / 256 = 0 :=
    covers_iff_of_formatR (by decide) (by decide) (by decide) w
  simp only [opcodeTable, List.exists_mem_cons_iff, List.not_mem_nil, false_and, exists_false, or_false,
    h1, h2, h3, h4, h5]

/-- Settles O5: a row fixes the opcode and no two rows share one, so the matching row is the decoded command's. -/
theorem decoderAgreesWithOpcodeTable : Obligations.DecoderAgreesWithOpcodeTable := by
  refine ⟨fun w r hr r' hr' h h' => ?_, fun w => ?_, fun w i hd r hr h => ?_⟩
  · exact row_eq_of_pattern_op r hr r' hr' ((op_eq_of_covers hr h).symm.trans (op_eq_of_covers hr' h'))
  · rw [exists_decode_ok_iff, exists_covers_iff w fun mnemonic => mnemonic = "RDREG" → w.toNat % 256 ≤ 0x16]
    simp only [String.reduceEq, false_implies, and_true, true_implies]
    omega
  · obtain ⟨-, rfl⟩ := encode_of_decode hd
    exact mnemonic_eq_of_pattern_op hr ((op_eq_of_covers hr h).symm.trans (encode_op i))

/-- Settles O6: the six words evaluate. -/
theorem writtenWordsDecode : Obligations.WrittenWordsDecode := by
  unfold Obligations.WrittenWordsDecode
  decide

end Sys2Proof
end

section
/-! SUPPORT. What one command and one step leave unchanged and answer, said once; and proofs of the statements on frames, responses and flags (10_state.md section 4, 30_encoding.md section 2, 60_exceptions.md section 4). -/

namespace Sys2Proof.Machine

/-! ### The frame of a load -/

/-- A load changes the coefficient file, `CAL_VALID` and the ports of the transport and the response, and nothing
else. -/
theorem loadCalibration_eq (p : Params) (s : State) :
    loadCalibration p s = { s with
      coef := (loadCalibration p s).coef
      calValid := (loadCalibration p s).calValid
      transport := (loadCalibration p s).transport
      bus := (loadCalibration p s).bus
      responses := (loadCalibration p s).responses
      freeIdx := (loadCalibration p s).freeIdx } := by
  rcases loadCalibration_cases s with h1 | ⟨b1, h1, h2⟩ | ⟨b1, b2, h1, h2, h3⟩ | ⟨b1, b2, b3, h1, h2, h3⟩
  · rw [loadCalibration_fail1 h1]
  · rw [loadCalibration_fail2 h1 h2]
  · rw [loadCalibration_fail3 h1 h2 h3]
  · rw [loadCalibration_ok h1 h2 h3]

section Load
variable (p : Params) (s : State)

@[simp] theorem loadCalibration_tOut : (loadCalibration p s).tOut = s.tOut :=
  (congrArg State.tOut (loadCalibration_eq p s) :)
@[simp] theorem loadCalibration_pOut : (loadCalibration p s).pOut = s.pOut :=
  (congrArg State.pOut (loadCalibration_eq p s) :)
@[simp] theorem loadCalibration_hOut : (loadCalibration p s).hOut = s.hOut :=
  (congrArg State.hOut (loadCalibration_eq p s) :)
@[simp] theorem loadCalibration_tfSet : (loadCalibration p s).tfSet = s.tfSet :=
  (congrArg State.tfSet (loadCalibration_eq p s) :)
@[simp] theorem loadCalibration_inputs : (loadCalibration p s).inputs = s.inputs :=
  (congrArg State.inputs (loadCalibration_eq p s) :)

end Load

/-- A load consumes one answer for each transaction it issues. -/
theorem loadCalibration_transport (p : Params) (s : State) :
    ∃ k, k ≤ 3 ∧ (loadCalibration p s).transport = s.transport.drop k := by
  rcases loadCalibration_cases s with h1 | ⟨b1, h1, h2⟩ | ⟨b1, b2, h1, h2, h3⟩ | ⟨b1, b2, b3, h1, h2, h3⟩
  · exact ⟨1, by decide, by rw [loadCalibration_fail1 h1, List.drop_one]⟩
  · exact ⟨2, by decide, by simp only [loadCalibration_fail2 h1 h2, ← List.drop_one, List.drop_drop]⟩
  · exact ⟨3, by decide, by simp only [loadCalibration_fail3 h1 h2 h3, ← List.drop_one, List.drop_drop]⟩
  · exact ⟨3, by decide, by simp only [loadCalibration_ok h1 h2 h3, ← List.drop_one, List.drop_drop]⟩

/-! ### Response words -/

theorem responseLegal_ok (v : Word) : ResponseLegal (responseWord .ok v) :=
  .inl (by rw [responseWord_ok_toNat]; exact v.isLt)

theorem responseLegal_fault (f : CommandFault) : ResponseLegal (responseWord f.status 0) :=
  .inr (responseWord_fault f)

/-- A load returns one legal response. -/
theorem loadCalibration_response (p : Params) (s : State) :
    ∃ r, (loadCalibration p s).responses = r :: s.responses ∧ ResponseLegal r := by
  rcases loadCalibration_outcome p s with ⟨-, -, h⟩ | ⟨-, h⟩
  · exact ⟨_, h, responseLegal_ok 0⟩
  · exact ⟨_, h, responseLegal_fault .transportError⟩

/-! ### The frame of the other commands -/

/-- A command other than `LDCAL` changes the result fields and returns one legal response, and nothing else. -/
theorem exec_eq_of_not_ldcal {i : Instr} {s t : State} (h : exec i s = .next t) (hi : i ≠ .ldcal) :
    ∃ r, ResponseLegal r ∧ t = { s with
      tFine := t.tFine, tfSet := t.tfSet, tOut := t.tOut, pOut := t.pOut, hOut := t.hOut
      responses := r :: s.responses } := by
  rcases exec_cases h with ⟨f, rfl⟩ | ⟨rfl, -⟩ | ⟨imm, -, -, rfl⟩ | ⟨imm, -, -, -, rfl⟩ | ⟨imm, -, -, -, rfl⟩ |
    ⟨idx, r, -, -, rfl⟩
  · exact ⟨_, responseLegal_fault f, rfl⟩
  · exact absurd rfl hi
  · exact ⟨_, responseLegal_ok _, rfl⟩
  · exact ⟨_, responseLegal_ok _, rfl⟩
  · exact ⟨_, responseLegal_ok _, rfl⟩
  · exact ⟨_, responseLegal_ok _, rfl⟩

/-- A command other than `COMPT` leaves the two temperature registers and `TF_SET` alone. -/
theorem exec_temperature_of_not_compt {i : Instr} {s t : State} (h : exec i s = .next t) (hi : ∀ imm, i ≠ .compt imm) :
    t.tFine = s.tFine ∧ t.tOut = s.tOut ∧ t.tfSet = s.tfSet := by
  rcases exec_cases h with ⟨f, rfl⟩ | ⟨-, -, rfl⟩ | ⟨imm, rfl, -⟩ | ⟨imm, -, -, -, rfl⟩ | ⟨imm, -, -, -, rfl⟩ |
    ⟨idx, r, -, -, rfl⟩
  · exact ⟨rfl, rfl, rfl⟩
  · exact ⟨loadCalibration_tFine _ s, loadCalibration_tOut _ s, loadCalibration_tfSet _ s⟩
  · exact absurd rfl (hi imm)
  · exact ⟨rfl, rfl, rfl⟩
  · exact ⟨rfl, rfl, rfl⟩
  · exact ⟨rfl, rfl, rfl⟩

/-- A command other than `COMPP` leaves `P_OUT` alone. -/
theorem exec_pOut_of_not_compp {i : Instr} {s t : State} (h : exec i s = .next t) (hi : ∀ imm, i ≠ .compp imm) :
    t.pOut = s.pOut := by
  rcases exec_cases h with ⟨f, rfl⟩ | ⟨-, -, rfl⟩ | ⟨imm, -, -, rfl⟩ | ⟨imm, rfl, -⟩ | ⟨imm, -, -, -, rfl⟩ |
    ⟨idx, r, -, -, rfl⟩
  · rfl
  · exact loadCalibration_pOut _ s
  · rfl
  · exact absurd rfl (hi imm)
  · rfl
  · rfl

/-- A command other than `COMPH` leaves `H_OUT` alone. -/
theorem exec_hOut_of_not_comph {i : Instr} {s t : State} (h : exec i s = .next t) (hi : ∀ imm, i ≠ .comph imm) :
    t.hOut = s.hOut := by
  rcases exec_cases h with ⟨f, rfl⟩ | ⟨-, -, rfl⟩ | ⟨imm, -, -, rfl⟩ | ⟨imm, -, -, -, rfl⟩ | ⟨imm, rfl, -⟩ |
    ⟨idx, r, -, -, rfl⟩
  · rfl
  · exact loadCalibration_hOut _ s
  · rfl
  · rfl
  · exact absurd rfl (hi imm)
  · rfl

/-! ### What every command does to the host's side -/

/-- A command takes no further input. -/
theorem exec_inputs {i : Instr} {s t : State} (h : exec i s = .next t) : t.inputs = s.inputs := by
  by_cases hi : i = .ldcal
  · subst hi
    obtain ⟨-, rfl⟩ := execLdcalWith_next (p := Config.params) h
    exact loadCalibration_inputs _ s
  · obtain ⟨r, -, ht⟩ := exec_eq_of_not_ldcal h hi
    exact (congrArg State.inputs ht :)

/-- A command that completes returns one legal response. -/
theorem exec_response {i : Instr} {s t : State} (h : exec i s = .next t) :
    ∃ r, t.responses = r :: s.responses ∧ ResponseLegal r := by
  by_cases hi : i = .ldcal
  · subst hi
    obtain ⟨-, rfl⟩ := execLdcalWith_next (p := Config.params) h
    exact loadCalibration_response _ s
  · obtain ⟨r, hr, ht⟩ := exec_eq_of_not_ldcal h hi
    exact ⟨r, congrArg State.responses ht, hr⟩

/-- A step on a command word either raises `IllegalCommand` or runs the command the word decodes to. -/
theorem step_command_cases {s t : State} {w : Command} {rest : List HostInput} (hi : s.inputs = .command w :: rest)
    (h : step s = .next t) :
    (∃ e, decode w = .error e ∧ t = raise .illegalCommand { s with inputs := rest }) ∨
      ∃ i, decode w = .ok i ∧ exec i { s with inputs := rest } = .next t := by
  rcases step_cases h with ⟨hnil, -⟩ | ⟨rest', hreset, -⟩ | ⟨w', rest', e, hcmd, hd, rfl⟩ |
    ⟨w', rest', i, hcmd, hd, hexec⟩
  · rw [hi] at hnil; cases hnil
  · rw [hi] at hreset; cases hreset
  · rw [hi] at hcmd; cases hcmd; exact .inl ⟨e, hd, rfl⟩
  · rw [hi] at hcmd; cases hcmd; exact .inr ⟨i, hd, hexec⟩

/-- A step takes one input where there is one. -/
theorem step_inputs {s t : State} (h : step s = .next t) : t.inputs = s.inputs.tail := by
  rcases step_cases h with ⟨hi, rfl⟩ | ⟨rest, hi, rfl⟩ | ⟨w, rest, e, hi, -, rfl⟩ | ⟨w, rest, i, hi, -, hexec⟩
  · rw [hi]; rfl
  · rw [hi]; rfl
  · rw [hi]; rfl
  · rw [hi]; exact exec_inputs hexec

/-- Settles O9: a refused word answers `ILLEGAL`, and every command returns one legal response. -/
theorem everyCommandAnswersOnce : Obligations.EveryCommandAnswersOnce := by
  intro s t w rest hi h
  refine ⟨by rw [step_inputs h, hi]; rfl, ?_⟩
  rcases step_command_cases hi h with ⟨e, -, rfl⟩ | ⟨i, -, hexec⟩
  · exact ⟨_, rfl, responseLegal_fault .illegalCommand⟩
  · exact (exec_response hexec :)

/-- Settles O26: the bus grows by bursts only, none of which is a write, and only under `LDCAL`. -/
theorem onlyLdcalReadsAndNothingWrites : Obligations.OnlyLdcalReadsAndNothingWrites := by
  intro i s t h
  obtain ⟨issued, hbus, hbursts⟩ := exec_growsByBursts h
  refine ⟨issued, hbus, hbursts, fun a v hw => not_burstTransaction_memWrite a v (hbursts _ hw), fun hi => ?_⟩
  obtain ⟨r, -, ht⟩ := exec_eq_of_not_ldcal h hi
  exact ⟨List.self_eq_append_left.mp ((exec_bus_of_not_ldcal h hi).symm.trans hbus), (congrArg State.transport ht :)⟩

/-- Settles O49: the frame every one of the four commands has, then each one's own registers. -/
theorem computeAndReadFrame : Obligations.ComputeAndReadFrame := by
  intro i s t hi h
  obtain ⟨r, -, ht⟩ := exec_eq_of_not_ldcal h hi
  have htransport : t.transport = s.transport := (congrArg State.transport ht :)
  refine ⟨(congrArg State.coef ht :), (congrArg State.calValid ht :), (congrArg State.inputs ht :),
    (congrArg State.bus ht :), (congrArg State.freeIdx ht :), htransport, fun k m hm => ?_,
    exec_temperature_of_not_compt h, exec_pOut_of_not_compp h,
    exec_hOut_of_not_comph h, r, (congrArg State.responses ht :)⟩
  exact ⟨m, htransport ▸ hm, fun _ => rfl⟩

/-! ### `UninitializedError` (60_exceptions.md R181), in the words of the response -/

theorem exec_compt_uncalibrated {s : State} (h : s.calValid = false) (imm : Word) :
    exec (.compt imm) s = .next { s with responses := uninitWord :: s.responses } :=
  execCompt_uncalibrated h imm

theorem exec_compp_unready {s : State} (h : s.calValid = false ∨ s.tfSet = false) (imm : Word) :
    exec (.compp imm) s = .next { s with responses := uninitWord :: s.responses } :=
  execCompp_unready h imm

theorem exec_comph_unready {s : State} (h : s.calValid = false ∨ s.tfSet = false) (imm : Word) :
    exec (.comph imm) s = .next { s with responses := uninitWord :: s.responses } :=
  execComph_unready h imm

/-! ### The two flags -/

/-- `TF_SET` after a `COMPT`. -/
theorem exec_compt_tfSet {s t : State} {imm : Word} (h : exec (.compt imm) s = .next t) :
    t.tfSet = (s.tfSet || s.calValid) := by
  rcases hcal : s.calValid with _ | _
  · cases (exec_compt_uncalibrated hcal imm).symm.trans h
    rw [Bool.or_false]
  · cases (exec_compt_calibrated hcal imm).symm.trans h
    rw [Bool.or_true]

/-- After a load `CAL_VALID` is 1 exactly when the response is `OK`. -/
theorem loadCalibration_calValid_iff (p : Params) (s : State) :
    (loadCalibration p s).calValid = true ↔ (loadCalibration p s).responses = okWord 0 :: s.responses := by
  rcases loadCalibration_outcome p s with ⟨-, hcal, hresp⟩ | ⟨hcal, hresp⟩
  · exact ⟨fun _ => hresp, fun _ => hcal⟩
  · rw [hcal, hresp, List.cons.injEq]
    exact ⟨fun h => absurd h (by decide), fun h => absurd h.1 (by decide)⟩

/-- Settles O48: `CAL_VALID` is in the frame of every command but `LDCAL`, `TF_SET` in that of every one but `COMPT`. -/
theorem flagsFollowTheirRules : Obligations.FlagsFollowTheirRules := by
  intro i s t h
  refine ⟨fun hi => ?_, fun hi => ?_, fun ⟨imm, hi⟩ => ?_, fun hi => (exec_temperature_of_not_compt h hi).2.2⟩
  · obtain ⟨r, -, ht⟩ := exec_eq_of_not_ldcal h hi
    exact (congrArg State.calValid ht :)
  · subst hi
    obtain ⟨-, rfl⟩ := execLdcalWith_next (p := Config.params) h
    exact loadCalibration_calValid_iff _ s
  · subst hi
    exact exec_compt_tfSet h

/-! ### Faults (60_exceptions.md section 4) -/

/-- How a command ends, by its status: a fault that changes nothing but the responses, a load, or `OK`. -/
theorem exec_status_cases {i : Instr} {s t : State} (h : exec i s = .next t) :
    (∃ f, t = raise f s) ∨ (i = .ldcal ∧ t = loadCalibration Config.params s) ∨
      ∃ v, t.responses = okWord v :: s.responses := by
  rcases exec_cases h with ⟨f, rfl⟩ | ⟨rfl, -, rfl⟩ | ⟨imm, -, -, rfl⟩ | ⟨imm, -, -, -, rfl⟩ | ⟨imm, -, -, -, rfl⟩ |
    ⟨idx, r, -, -, rfl⟩
  · exact .inl ⟨f, rfl⟩
  · exact .inr (.inl ⟨rfl, rfl⟩)
  · exact .inr (.inr ⟨_, rfl⟩)
  · exact .inr (.inr ⟨_, rfl⟩)
  · exact .inr (.inr ⟨_, rfl⟩)
  · exact .inr (.inr ⟨_, rfl⟩)

theorem okWord_toNat_lt (v : Word) : (okWord v).toNat < 2 ^ 32 := (responseWord_ok_toNat v).trans_lt v.isLt

/-- Settles O45: a fault is a `raise`, which changes the responses only, or it is a failing load's. -/
theorem failedCommandsChangeNothingElse : Obligations.FailedCommandsChangeNothingElse := by
  intro s t w rest r hi h hresp hr
  rcases step_command_cases hi h with ⟨e, -, rfl⟩ | ⟨i, hd, hexec⟩
  · cases hresp; exact .inl rfl
  rcases exec_status_cases hexec with ⟨f, rfl⟩ | ⟨rfl, rfl⟩ | ⟨v, hok⟩
  · cases hresp; exact .inl rfl
  · rcases loadCalibration_outcome Config.params { s with inputs := rest } with ⟨-, -, hok⟩ | ⟨hcal, hfail⟩
    · cases hok.symm.trans hresp
      exact absurd (okWord_toNat_lt 0) (Nat.not_lt.mpr hr)
    · cases hfail.symm.trans hresp
      exact .inr ⟨hd, rfl, hcal, loadCalibration_tFine _ _, loadCalibration_tOut _ _, loadCalibration_pOut _ _,
        loadCalibration_hOut _ _, loadCalibration_tfSet _ _, loadCalibration_inputs _ _⟩
  · cases hok.symm.trans hresp
    exact absurd (okWord_toNat_lt v) (Nat.not_lt.mpr hr)

end Sys2Proof.Machine
end

section
/-! SUPPORT. Proofs of the whole-machine statements: what every step keeps, what is unobservable, and what a run leaves alone (10_state.md sections 2 to 4, 70_reset_and_hazards.md section 3). -/

namespace Sys2Proof.Machine

/-! ### Soundness is kept by each named update -/

/-- Soundness says nothing of the host's coming inputs. -/
theorem sound_with_inputs {s : State} (h : Sound s) (rest : List HostInput) : Sound { s with inputs := rest } :=
  { h with }

theorem sound_respond {s : State} (h : Sound s) {st : Status} {v : Word} (hlegal : ResponseLegal (responseWord st v)) :
    Sound (respond st v s) :=
  { h with responsesLegal := List.forall_mem_cons.mpr ⟨hlegal, h.responsesLegal⟩ }

theorem sound_finish {s : State} (h : Sound s) (v : Word) : Sound (finish v s) := sound_respond h (responseLegal_ok v)

theorem sound_raise {s : State} (h : Sound s) (f : CommandFault) : Sound (raise f s) :=
  sound_respond h (responseLegal_fault f)

theorem sound_reset : Sound State.reset :=
  { temperatureBounded := by unfold TemperatureBounded; decide
    temperatureCoupled := by unfold TemperatureCoupled; decide
    humidityBounded := by unfold HumidityBounded; decide
    nibblesBounded := by unfold NibblesBounded; decide
    untouchedBeforeCompt := fun _ => ⟨rfl, rfl, rfl, rfl⟩
    responsesLegal := List.forall_mem_nil _
    busOnlyBursts := List.forall_mem_nil _
    memoriesCanonical := reset_memories_wf }

/-- Settles O50: every register is 0 and every record is empty. -/
theorem resetIsSound : Obligations.ResetIsSound := sound_reset

/-- A reset event leaves the registers of the reset state and the ports as they were. -/
theorem sound_resetBlock {s : State} (h : Sound s) : Sound (resetBlock s) :=
  { sound_reset with
    responsesLegal := h.responsesLegal
    busOnlyBursts := h.busOnlyBursts
    memoriesCanonical := h.memoriesCanonical }

/-- The `T` of a bounded `T_FINE` is bounded and stands in the floor relation to it. -/
theorem temperature_bounds {tf : Int} (lo : -1179648 ≤ tf) (hi : tf ≤ 1179646) :
    -23040 ≤ temperature tf ∧ temperature tf ≤ 23040 := by
  rw [temperature_eq_floor lo hi]
  omega

theorem sound_commitTemperature {s : State} (h : Sound s) {tf : Int} (lo : -1179648 ≤ tf) (hi : tf ≤ 1179646) :
    Sound (commitTemperature tf s) := by
  obtain ⟨Tlo, Thi⟩ := temperature_bounds lo hi
  have hfine : (u32 tf).toInt = tf := u32_toInt_of_fits (by omega) (by omega)
  have hout : (u32 (temperature tf)).toInt = temperature tf := u32_toInt_of_fits (by omega) (by omega)
  have hsound : Sound { s with tFine := u32 tf, tfSet := true, tOut := u32 (temperature tf) } :=
    { h with
      temperatureBounded := by unfold TemperatureBounded; rw [hfine, hout]; exact ⟨⟨lo, hi⟩, Tlo, Thi⟩
      temperatureCoupled := by unfold TemperatureCoupled; rw [hfine, hout, temperature_eq_floor lo hi]
      untouchedBeforeCompt := fun hclear => Bool.noConfusion hclear }
  exact sound_finish hsound _

/-- Once `TF_SET` is 1 nothing restrains `P_OUT`. -/
theorem sound_commitPressure {s : State} (h : Sound s) (hset : s.tfSet = true) (p : Int) :
    Sound (commitPressure p s) := by
  have hsound : Sound { s with pOut := u32 p } :=
    { h with untouchedBeforeCompt := fun hclear => absurd (hset.symm.trans hclear) (by decide) }
  exact sound_finish hsound _

theorem humClamp_bounds (v : Int) : 0 ≤ humClamp v ∧ humClamp v ≤ 419430400 := by
  unfold humClamp
  omega

/-- The clamp bounds the stored humidity, whatever the value before it. -/
theorem humidity_bounds (c : Coefs) (tf adc : Int) : 0 ≤ humidity c tf adc ∧ humidity c tf adc ≤ 102400 := by
  obtain ⟨lo, hi⟩ := humClamp_bounds (humPreClamp c tf adc)
  unfold humidity asr
  omega

theorem sound_commitHumidity {s : State} (h : Sound s) (hset : s.tfSet = true) {r : Int} (lo : 0 ≤ r)
    (hi : r ≤ 102400) :
    Sound (commitHumidity r s) := by
  have hstored := u32_toNat_of_fits lo (by omega)
  have hbounded : (u32 r).toNat ≤ 102400 := by omega
  have hsound : Sound { s with hOut := u32 r } :=
    { h with
      humidityBounded := hbounded
      untouchedBeforeCompt := fun hclear => absurd (hset.symm.trans hclear) (by decide) }
  exact sound_finish hsound _

/-! ### A load keeps soundness -/

/-- A sign-extended 12-bit pattern is a 12-bit signed value (10_state.md R21). -/
theorem extendNibble_bounds {p : Params} (hp : p.h45SignExtend = true) (pattern : BitVec 12) :
    -2048 ≤ (extendNibble p pattern).toInt ∧ (extendNibble p pattern).toInt ≤ 2047 := by
  have hlo := pattern.le_toInt
  have hhi := pattern.toInt_lt
  rw [extendNibble, if_pos hp, BitVec.toInt_signExtend_of_le (by decide)]
  omega

/-- After a load `H4` and `H5` are what they were or sign-extended patterns. -/
theorem loadCalibration_nibblesBounded {p : Params} (hp : p.h45SignExtend = true) {s : State} (h : NibblesBounded s) :
    NibblesBounded (loadCalibration p s) := by
  rcases loadCalibration_cases s with h1 | ⟨b1, h1, h2⟩ | ⟨b1, b2, h1, h2, h3⟩ | ⟨b1, b2, b3, h1, h2, h3⟩
  · rw [loadCalibration_fail1 h1]; exact h
  · rw [loadCalibration_fail2 h1 h2]; exact h
  · rw [loadCalibration_fail3 h1 h2 h3]; exact h
  · rw [loadCalibration_ok h1 h2 h3]; exact ⟨extendNibble_bounds hp _, extendNibble_bounds hp _⟩

theorem sound_loadCalibration {s : State} (h : Sound s) : Sound (loadCalibration Config.params s) := by
  obtain ⟨r, hresp, hlegal⟩ := loadCalibration_response Config.params s
  obtain ⟨issued, hbus, hbursts⟩ := loadCalibration_growsByBursts Config.params s
  obtain ⟨k, -, htransport⟩ := loadCalibration_transport Config.params s
  exact
    { temperatureBounded := by simpa [TemperatureBounded] using h.temperatureBounded
      temperatureCoupled := by simpa [TemperatureCoupled] using h.temperatureCoupled
      humidityBounded := by simpa [HumidityBounded] using h.humidityBounded
      nibblesBounded := loadCalibration_nibblesBounded rfl h.nibblesBounded
      untouchedBeforeCompt := by simpa [UntouchedBeforeCompt] using h.untouchedBeforeCompt
      responsesLegal := by rw [hresp]; exact List.forall_mem_cons.mpr ⟨hlegal, h.responsesLegal⟩
      busOnlyBursts := by rw [hbus]; exact List.forall_mem_append.mpr ⟨hbursts, h.busOnlyBursts⟩
      memoriesCanonical := fun a ha => h.memoriesCanonical a (List.mem_of_mem_drop (htransport ▸ ha)) }

/-- Every command keeps soundness. -/
theorem sound_exec {i : Instr} {s t : State} (hs : Sound s) (h : exec i s = .next t) : Sound t := by
  rcases exec_cases h with ⟨f, rfl⟩ | ⟨-, -, rfl⟩ | ⟨imm, -, -, rfl⟩ | ⟨imm, -, -, hset, rfl⟩ |
    ⟨imm, -, -, hset, rfl⟩ | ⟨idx, r, -, -, rfl⟩
  · exact sound_raise hs f
  · exact sound_loadCalibration hs
  · obtain ⟨lo, hi⟩ :=
      fineTemperature_bounds (s.coef.value .t1) (s.coef.value .t2) (s.coef.value .t3) (immOperand imm)
    exact sound_commitTemperature hs lo hi
  · exact sound_commitPressure hs hset _
  · obtain ⟨lo, hi⟩ := humidity_bounds s.coef s.fine (immOperand imm)
    exact sound_commitHumidity hs hset lo hi
  · exact sound_finish hs _

/-- Settles O51: each of the four things a step can do keeps every component of soundness. -/
theorem everyStepKeepsSoundness : Obligations.EveryStepKeepsSoundness := by
  intro s t hs h
  rcases step_cases h with ⟨-, rfl⟩ | ⟨rest, -, rfl⟩ | ⟨w, rest, e, -, -, rfl⟩ | ⟨w, rest, i, -, -, hexec⟩
  · exact hs
  · exact sound_resetBlock (sound_with_inputs hs rest)
  · exact sound_raise (sound_with_inputs hs rest) _
  · exact sound_exec (sound_with_inputs hs rest) hexec

/-! ### While `CAL_VALID` is 0 the coefficient file is unobservable (40_calibration_unpack.md section 2) -/

theorem agreeUnlessUncalibrated_refl (s : State) : AgreeUnlessUncalibrated s s := ⟨rfl, fun _ => rfl⟩

/-- Two uncalibrated states that differ in the file only agree. -/
theorem agreeUnlessUncalibrated_of_uncalibrated {s : State} (h : s.calValid = false) (c : Coefs) :
    AgreeUnlessUncalibrated s { s with coef := c } :=
  ⟨rfl, fun hcal => absurd (h.symm.trans hcal) (by decide)⟩

/-- The same, with the same responses returned. -/
theorem agreeUnlessUncalibrated_with_responses {s : State} (h : s.calValid = false) (c : Coefs) (r : List Response) :
    AgreeUnlessUncalibrated { s with responses := r } { s with coef := c, responses := r } :=
  agreeUnlessUncalibrated_of_uncalibrated (s := { s with responses := r }) h c

/-- Loads from two states that differ in the file only end in states that agree: a full load leaves nothing of either
file, and a failing one is uncalibrated. -/
theorem loadCalibration_agree (p : Params) (s : State) (c : Coefs) :
    AgreeUnlessUncalibrated (loadCalibration p s) (loadCalibration p { s with coef := c }) := by
  rcases loadCalibration_cases s with h1 | ⟨b1, h1, h2⟩ | ⟨b1, b2, h1, h2, h3⟩ | ⟨b1, b2, b3, h1, h2, h3⟩
  · rw [loadCalibration_fail1 h1, loadCalibration_fail1 (s := { s with coef := c }) h1]
    exact agreeUnlessUncalibrated_of_uncalibrated rfl _
  · rw [loadCalibration_fail2 h1 h2, loadCalibration_fail2 (s := { s with coef := c }) h1 h2]
    exact agreeUnlessUncalibrated_of_uncalibrated rfl _
  · rw [loadCalibration_fail3 h1 h2 h3, loadCalibration_fail3 (s := { s with coef := c }) h1 h2 h3]
    exact agreeUnlessUncalibrated_of_uncalibrated rfl _
  · rw [loadCalibration_ok h1 h2 h3, loadCalibration_ok (s := { s with coef := c }) h1 h2 h3]
    exact agreeUnlessUncalibrated_refl _

/-- A register read of an uncalibrated block does not see the file. -/
theorem execRdreg_agree {s : State} (h : s.calValid = false) (c : Coefs) (idx : Byte) :
    ∃ r, execRdreg idx s = .next { s with responses := r } ∧
      execRdreg idx { s with coef := c } = .next { s with coef := c, responses := r } := by
  unfold execRdreg
  cases regOfIndex idx with
  | none => exact ⟨_, rfl, rfl⟩
  | some reg =>
    cases reg with
    | coef _ =>
      simp only [readNamed]
      rw [requireCalibration_false h, requireCalibration_false (s := { s with coef := c }) h]
      exact ⟨_, rfl, rfl⟩
    | tFine => exact ⟨_, rfl, rfl⟩
    | tOut => exact ⟨_, rfl, rfl⟩
    | pOut => exact ⟨_, rfl, rfl⟩
    | hOut => exact ⟨_, rfl, rfl⟩
    | status => exact ⟨_, rfl, rfl⟩

/-- A command on two uncalibrated states that differ in the file only ends in states that agree. -/
theorem exec_agree_of_uncalibrated {i : Instr} {s t : State} (hcal : s.calValid = false) (c : Coefs)
    (h : exec i s = .next t) : ∃ t', exec i { s with coef := c } = .next t' ∧ AgreeUnlessUncalibrated t t' := by
  have hcal' : ({ s with coef := c } : State).calValid = false := hcal
  cases i with
  | ldcal =>
    obtain ⟨hanswered, rfl⟩ := execLdcalWith_next (p := Config.params) h
    exact ⟨_, execLdcalWith_of_answered (s := { s with coef := c }) hanswered, loadCalibration_agree _ s c⟩
  | compt imm =>
    cases (exec_compt_uncalibrated hcal imm).symm.trans h
    exact ⟨_, exec_compt_uncalibrated hcal' imm, agreeUnlessUncalibrated_with_responses hcal c _⟩
  | compp imm =>
    cases (exec_compp_unready (.inl hcal) imm).symm.trans h
    exact ⟨_, exec_compp_unready (.inl hcal') imm, agreeUnlessUncalibrated_with_responses hcal c _⟩
  | comph imm =>
    cases (exec_comph_unready (.inl hcal) imm).symm.trans h
    exact ⟨_, exec_comph_unready (.inl hcal') imm, agreeUnlessUncalibrated_with_responses hcal c _⟩
  | rdreg idx =>
    obtain ⟨r, e, e'⟩ := execRdreg_agree hcal c idx
    cases e.symm.trans h
    exact ⟨_, e', agreeUnlessUncalibrated_with_responses hcal c _⟩

/-- A word that does not decode raises `IllegalCommand`. -/
theorem step_illegal {s : State} {w : Command} {rest : List HostInput} {e : DecodeError}
    (hi : s.inputs = .command w :: rest) (hd : decode w = .error e) :
    step s = .next (raise .illegalCommand { s with inputs := rest }) := by
  simp only [step, takeInput, hi, runCommand, hd]

theorem step_reset {s : State} {rest : List HostInput} (hi : s.inputs = .reset :: rest) :
    step s = .next (resetBlock { s with inputs := rest }) := by
  simp only [step, takeInput, hi]

theorem step_passive {s : State} (hi : s.inputs = []) : step s = .next s := by
  simp only [step, takeInput, hi]

/-- A step on two uncalibrated states that differ in the file only ends in states that agree. -/
theorem step_agree_of_uncalibrated {s t : State} (hcal : s.calValid = false) (c : Coefs) (h : step s = .next t) :
    ∃ t', step { s with coef := c } = .next t' ∧ AgreeUnlessUncalibrated t t' := by
  rcases step_cases h with ⟨hi, rfl⟩ | ⟨rest, hi, rfl⟩ | ⟨w, rest, e, hi, hd, rfl⟩ | ⟨w, rest, i, hi, hd, hexec⟩
  · exact ⟨_, step_passive (s := { t with coef := c }) hi, agreeUnlessUncalibrated_of_uncalibrated hcal c⟩
  · exact ⟨_, step_reset (s := { s with coef := c }) hi, agreeUnlessUncalibrated_refl _⟩
  · refine ⟨_, step_illegal (s := { s with coef := c }) hi hd, ?_⟩
    exact agreeUnlessUncalibrated_of_uncalibrated (s := raise .illegalCommand { s with inputs := rest }) hcal c
  · obtain ⟨t', hexec', hagree⟩ := exec_agree_of_uncalibrated (s := { s with inputs := rest }) hcal c hexec
    exact ⟨t', (step_command (s := { s with coef := c }) hi hd).trans hexec', hagree⟩

/-- Settles O52: calibrated states that agree are equal, and uncalibrated ones differ in the file only, which no
operation but a load reads or writes. -/
theorem uncalibratedCoefficientsAreUnobservable : Obligations.UncalibratedCoefficientsAreUnobservable := by
  rintro s s' t ⟨hs', hcoef⟩ h
  rcases hcal : s.calValid with _ | _
  · rw [hs']
    exact step_agree_of_uncalibrated hcal s'.coef h
  · have heq : s' = s := by rw [hs', hcoef hcal]
    exact ⟨t, heq.symm ▸ h, agreeUnlessUncalibrated_refl t⟩

/-! ### `T_FINE` outlives every step that is no `COMPT` and no reset (70_reset_and_hazards.md section 3) -/

/-- A step that takes neither a `COMPT` nor a reset leaves `T_FINE` and `TF_SET` alone. -/
theorem step_leavesFineTemperature {s t : State} (h : step s = .next t)
    (hleaves : ∀ x ∈ s.inputs.head?, LeavesFineTemperature x) : t.tFine = s.tFine ∧ t.tfSet = s.tfSet := by
  rcases step_cases h with ⟨-, rfl⟩ | ⟨rest, hi, rfl⟩ | ⟨w, rest, e, -, -, rfl⟩ | ⟨w, rest, i, hi, hd, hexec⟩
  · exact ⟨rfl, rfl⟩
  · exact absurd (hleaves .reset (by simp [hi])) (by simp [LeavesFineTemperature])
  · exact ⟨rfl, rfl⟩
  · have hword : ∀ imm, decode w ≠ .ok (.compt imm) := hleaves (.command w) (by simp [hi])
    obtain ⟨hfine, -, hset⟩ := exec_temperature_of_not_compt hexec fun imm he => hword imm (he ▸ hd)
    exact ⟨hfine, hset⟩

/-- Settles O53: induction on the number of steps. -/
theorem fineTemperatureSurvivesUntilTheNextCompt : Obligations.FineTemperatureSurvivesUntilTheNextCompt := by
  intro n
  induction n with
  | zero =>
    intro s t h _
    cases (run_zero s).symm.trans h
    exact ⟨rfl, rfl⟩
  | succ n ih =>
    intro s t h hleaves
    obtain ⟨u, hstep, hrun⟩ := run_succ_next h
    have hhead : ∀ x ∈ s.inputs.head?, LeavesFineTemperature x := by
      intro x hx
      obtain ⟨rest, hi⟩ := List.head?_eq_some_iff.mp hx
      exact hleaves x (by simp [hi])
    have htail : ∀ x ∈ u.inputs.take n, LeavesFineTemperature x := by
      intro x hx
      rw [step_inputs hstep] at hx
      refine hleaves x (List.mem_of_mem_tail ?_)
      rwa [List.tail_take_eq_take_tail, Nat.add_sub_cancel]
    obtain ⟨hfine, hset⟩ := step_leavesFineTemperature hstep hhead
    obtain ⟨hfine', hset'⟩ := ih u t hrun htail
    exact ⟨hfine'.trans hfine, hset'.trans hset⟩

end Sys2Proof.Machine
end

section
/-! SUPPORT. Proofs of the statements on loads and the read primitive (40_calibration_unpack.md sections 1, 2; 20_memory.md sections 2, 3). -/

namespace Sys2Proof.Machine

/-! ### What a successful load stores in `H4` and `H5` (40_calibration_unpack.md R114 to R116) -/

/-- A load whose bursts succeed, under any parameters. -/
theorem execLdcalWith_of_burstsSucceed (p : Params) {s : State} {B1 B2 B3 : Addr → Byte} {q : List TransportAnswer}
    {k : Nat} (h : BurstsSucceed s B1 B2 B3 q k) :
    execLdcalWith p s = .next { s with
      coef := commitBurst3 p (imageByte 0xE1 (bytesFrom B3 0xE1 7))
        (commitBurst2 (imageByte 0xA1 (bytesFrom B2 0xA1 1))
          (commitBurst1 p (imageByte 0x88 (bytesFrom B1 0x88 24)) s.coef))
      calValid := true
      transport := q
      freeIdx := k
      bus := .memRead 0xE1 7 :: .memRead 0xA1 1 :: .memRead 0x88 24 :: s.bus
      responses := okWord 0 :: s.responses } := by
  obtain ⟨hanswered, h1, h2, h3, rfl, rfl⟩ := h.answers
  rw [execLdcalWith_of_answered hanswered, loadCalibration_ok h1 h2 h3]
  rfl

theorem nibH4_bytesFrom (B : Addr → Byte) : nibH4 (imageByte 0xE1 (bytesFrom B 0xE1 7)) = nibH4 B := by
  simp [nibH4, imageByte_bytesFrom]

theorem nibH5_bytesFrom (B : Addr → Byte) : nibH5 (imageByte 0xE1 (bytesFrom B 0xE1 7)) = nibH5 B := by
  simp [nibH5, imageByte_bytesFrom]

/-- `H4` and `H5` after a load whose bursts succeed. -/
theorem execLdcalWith_nibbles {p : Params} {s t : State} {B1 B2 B3 : Addr → Byte} {q : List TransportAnswer} {k : Nat}
    (h : BurstsSucceed s B1 B2 B3 q k) (ht : execLdcalWith p s = .next t) :
    t.coef.h4 = extendNibble p (nibH4 B3) ∧ t.coef.h5 = extendNibble p (nibH5 B3) := by
  cases (execLdcalWith_of_burstsSucceed p h).symm.trans ht
  exact ⟨congrArg (extendNibble p) (nibH4_bytesFrom B3), congrArg (extendNibble p) (nibH5_bytesFrom B3)⟩

/-- The integer stored for a 12-bit pattern under either setting of `H45_SIGN_EXTEND`. -/
theorem extendNibble_toInt (p : Params) (pattern : BitVec 12) :
    (extendNibble p pattern).toInt = if p.h45SignExtend then sext 12 pattern.toNat else (pattern.toNat : Int) := by
  unfold extendNibble
  split
  · rw [BitVec.toInt_signExtend_of_le (by decide), sext_toNat (by decide)]
  · have hwidth : (pattern.setWidth 16).toNat = pattern.toNat := BitVec.toNat_setWidth_of_le (by decide)
    rw [BitVec.toInt_eq_toNat_of_lt (by omega), hwidth]

/-- The two settings store the same register exactly when bit 11 of the pattern is 0. -/
theorem extendNibble_eq_iff {p p' : Params} (hp : p.h45SignExtend = true) (hp' : p'.h45SignExtend = false)
    (pattern : BitVec 12) : extendNibble p pattern = extendNibble p' pattern ↔ pattern.toNat < 2048 := by
  rw [← BitVec.toInt_inj, extendNibble_toInt, extendNibble_toInt, if_pos hp, hp', if_neg Bool.false_ne_true, sext]
  have hlt := pattern.isLt
  split <;> omega

/-- Bit 11 of a pattern is bit 7 of its high byte. -/
theorem pattern_lt_iff_high_byte_lt {pattern : BitVec 12} {b : Byte} (h : pattern.extractLsb' 4 8 = b) :
    pattern.toNat < 2048 ↔ b.toNat < 128 := by
  rw [← h, BitVec.extractLsb'_toNat, Nat.shiftRight_eq_div_pow]
  omega

/-- Settles O18: the stored register is `extendNibble` of the pattern, which reads bit 11 under one setting only. -/
theorem nibbleExtensionFollowsTheParameter : Obligations.NibbleExtensionFollowsTheParameter := by
  refine ⟨fun p s B1 B2 B3 q k h => ?_, fun p p' s t t' B1 B2 B3 q k h hp hp' ht ht' => ?_⟩
  · have hload := execLdcalWith_of_burstsSucceed p h
    obtain ⟨h4, h5⟩ := execLdcalWith_nibbles h hload
    refine ⟨_, hload, ?_, ?_⟩
    · exact (congrArg BitVec.toInt h4).trans (extendNibble_toInt p _)
    · exact (congrArg BitVec.toInt h5).trans (extendNibble_toInt p _)
  · obtain ⟨h4, h5⟩ := execLdcalWith_nibbles h ht
    obtain ⟨h4', h5'⟩ := execLdcalWith_nibbles h ht'
    obtain ⟨-, -, hE4, -, hE6, -⟩ := nibblePatternsFollowTheFormulas B3
    rw [h4, h5, h4', h5', extendNibble_eq_iff hp hp', extendNibble_eq_iff hp hp']
    exact ⟨pattern_lt_iff_high_byte_lt hE4, pattern_lt_iff_high_byte_lt hE6⟩

/-- Settles O20: the bytes of the three bursts fill the file from their addresses. -/
theorem ldcalLoadsEveryCoefficient : Obligations.LdcalLoadsEveryCoefficient :=
  fun _ _ _ _ _ _ => exec_ldcal_of_burstsSucceed

/-- Settles O25: under `P3_ADDR = 0x90` burst 1 takes `P3` from the bytes of `P2`, and nothing else reads the
parameter. -/
theorem copyPasteParameterDuplicatesP2 : Obligations.CopyPasteParameterDuplicatesP2 := by
  intro s B1 B2 B3 q k h
  exact ⟨_, execLdcalWith_of_burstsSucceed Config.params h, execLdcalWith_of_burstsSucceed _ h⟩

/-! ### When a load completes (93_implementation_defined.md U10) -/

/-- Settles O22: no issued transaction hangs, and each of the ways a load ends leaves these registers alone. -/
theorem ldcalAnswersUnderEveryEnvironment : Obligations.LdcalAnswersUnderEveryEnvironment := by
  intro s hanswered
  have hload : exec .ldcal s = .next (loadCalibration Config.params s) :=
    execLdcalWith_of_answered (transportHangs_of_not_mem 3 hanswered)
  exact ⟨_, hload, (loadCalibration_outcome Config.params s).imp_left And.right, loadCalibration_tFine _ s,
    loadCalibration_tfSet _ s, loadCalibration_tOut _ s, loadCalibration_pOut _ s, loadCalibration_hOut _ s,
    loadCalibration_inputs _ s, loadCalibration_transport _ s⟩

/-- The next of the transactions is never answered, or it succeeds and a later one is never answered. -/
theorem transportHangs_succ_iff (n : Nat) (q : List TransportAnswer) :
    transportHangs (n + 1) q = true ↔
      (∃ rest, q = .never :: rest) ∨ ∃ m rest, q = .image m :: rest ∧ transportHangs n rest = true := by
  match q with
  | [] => simp [transportHangs]
  | .image m :: rest => simp [transportHangs]
  | .failed :: rest => simp [transportHangs]
  | .never :: rest => simp [transportHangs]

theorem execLdcalWith_fault_iff (p : Params) (s : State) :
    execLdcalWith p s = .fault .transactionNeverAnswered ↔ transportHangs 3 s.transport = true := by
  cases h : transportHangs 3 s.transport <;> simp [execLdcalWith, h]

/-- Settles O23: the three transactions of a load, one after the other. -/
theorem ldcalStopsOnlyWithoutAnAnswer : Obligations.LdcalStopsOnlyWithoutAnAnswer := by
  intro s
  refine (execLdcalWith_fault_iff Config.params s).trans ?_
  rw [transportHangs_succ_iff]
  constructor
  · rintro (hnever | ⟨m1, q1, h1, hq1⟩)
    · exact .inl hnever
    rcases (transportHangs_succ_iff 1 q1).mp hq1 with ⟨rest, rfl⟩ | ⟨m2, q2, rfl, hq2⟩
    · exact .inr (.inl ⟨m1, rest, h1⟩)
    rcases (transportHangs_succ_iff 0 q2).mp hq2 with ⟨rest, rfl⟩ | ⟨m3, q3, rfl, hq3⟩
    · exact .inr (.inr ⟨m1, m2, rest, h1⟩)
    · exact absurd hq3 Bool.false_ne_true
  · rintro (hnever | ⟨m1, rest, h⟩ | ⟨m1, m2, rest, h⟩)
    · exact .inl hnever
    · exact .inr ⟨m1, _, h, rfl⟩
    · exact .inr ⟨m1, _, h, rfl⟩

/-! ### The read primitive (20_memory.md section 3) -/

/-- Settles O19: a transaction answers as the environment does, and it has an answer unless it hangs. -/
theorem readTransactionIsWholeOrFails : Obligations.ReadTransactionIsWholeOrFails := by
  refine ⟨fun s addr n q k => ⟨fun B h => ?_, fun h => ?_⟩, fun s => ⟨?_, environmentAnswers_exists s.freeIdx⟩⟩
  · obtain ⟨hanswer, rfl, rfl, -⟩ := environmentAnswers_cases h
    refine ⟨bytesFrom B addr n, ?_, bytesFrom_length B addr n, fun i hi => bytesFrom_getElem? B addr hi⟩
    rw [memRead, hanswer]
    rfl
  · obtain ⟨hanswer, rfl, rfl, -⟩ := environmentAnswers_cases h
    rw [memRead, hanswer]
    rfl
  · rintro ⟨answer, q, k, h⟩
    obtain ⟨-, -, -, hhead⟩ := environmentAnswers_cases h
    exact hhead

/-! ### The bursts and the register map (20_memory.md section 2) -/

/-- An address lies in a burst when it lies between the burst's two ends. -/
theorem sub_toNat_lt_iff {base : Addr} {size : Nat} (hsize : base.toNat + size ≤ 256) (a : Addr) :
    (a - base).toNat < size ↔ base.toNat ≤ a.toNat ∧ a.toNat < base.toNat + size := by
  rw [BitVec.toNat_sub]
  omega

/-- The rows of the block. -/
theorem block_rows_eq :
    registerMap.filter (fun r => r.accessor = .block) =
      [⟨0x88, 24, .tempPressCalibration, .block⟩, ⟨0xA1, 1, .h1Calibration, .block⟩,
        ⟨0xE1, 7, .humidityCalibration, .block⟩] := by decide

/-- The rows of the block stand below those of the orchestrator. -/
theorem block_rows_below :
    ∀ r ∈ registerMap, if r.accessor = .block then r.base + r.size ≤ 0xF2 else 0xF2 ≤ r.base := by decide

/-- A row that lists an address. -/
theorem mapRowOf_eq_some {a : Addr} {r : MapRow} (h : mapRowOf a = some r) :
    r ∈ registerMap ∧ r.base ≤ a.toNat ∧ a.toNat < r.base + r.size := by
  have hrow := List.find?_some h
  rw [Bool.and_eq_true, decide_eq_true_eq, decide_eq_true_eq] at hrow
  exact ⟨List.mem_of_find?_eq_some h, hrow⟩

/-- An address that a row lists has a row. -/
theorem exists_mapRowOf {a : Addr} {r : MapRow} (hr : r ∈ registerMap)
    (h : r.base ≤ a.toNat ∧ a.toNat < r.base + r.size) :
    ∃ r', mapRowOf a = some r' := by
  rw [← Option.isSome_iff_exists, mapRowOf, List.find?_isSome]
  exact ⟨r, hr, by simpa using h⟩

/-- An address is the block's exactly when one of the block's rows lists it. -/
theorem mapRowOf_block_iff (a : Addr) :
    (∃ r, mapRowOf a = some r ∧ r.accessor = .block) ↔
      ∃ r ∈ registerMap.filter (fun r => r.accessor = .block), r.base ≤ a.toNat ∧ a.toNat < r.base + r.size := by
  simp only [List.mem_filter, decide_eq_true_eq]
  constructor
  · rintro ⟨r, h, hblock⟩
    obtain ⟨hr, hin⟩ := mapRowOf_eq_some h
    exact ⟨r, ⟨hr, hblock⟩, hin⟩
  · rintro ⟨r, ⟨hr, hblock⟩, hin⟩
    obtain ⟨r', h⟩ := exists_mapRowOf hr hin
    obtain ⟨hr', hin'⟩ := mapRowOf_eq_some h
    refine ⟨r', h, ?_⟩
    have hlow := block_rows_below r hr
    have hhigh := block_rows_below r' hr'
    rw [if_pos hblock] at hlow
    by_contra hother
    rw [if_neg hother] at hhigh
    omega

/-- Settles O27: the three bursts are the three rows of the block. -/
theorem burstsReadExactlyTheBlocksAddresses : Obligations.BurstsReadExactlyTheBlocksAddresses := by
  intro a
  rw [mapRowOf_block_iff, block_rows_eq, sub_toNat_lt_iff (by decide), sub_toNat_lt_iff (by decide),
    sub_toNat_lt_iff (by decide)]
  simp

end Sys2Proof.Machine
end

section
/-! SUPPORT. Proofs of the statements on the command port, reset and the parameters (10_state.md section 7, 60_exceptions.md sections 1, 2, 70_reset_and_hazards.md section 1). -/

namespace Sys2Proof.Machine

/-- Settles O7: the port hands the decoded command to `exec`. -/
theorem stepRunsTheDecodedCommand : Obligations.StepRunsTheDecodedCommand := fun _ _ _ _ hi hd => step_command hi hd

/-- Settles O8: `IllegalCommand` is raised on the state with the input taken. -/
theorem illegalCommandHasNoEffect : Obligations.IllegalCommandHasNoEffect := fun _ _ _ _ hi hd => step_illegal hi hd

/-- Settles O10: the reset event takes the registers of the reset state and keeps the ports. -/
theorem resetEventRestoresRegisters : Obligations.ResetEventRestoresRegisters := fun _ _ hi => step_reset hi

/-- Overlapping commands are refused. -/
theorem step_overlapping {s : State} {a b : Command} {rest : List HostInput}
    (hi : s.inputs = .overlapping a b :: rest) :
    step s = .refused .overlappingCommands := by
  simp only [step, takeInput, hi]

/-- Settles O11: the port's answers to no input and to overlapping commands. -/
theorem passiveAndOverlapping : Obligations.PassiveAndOverlapping :=
  ⟨fun _ => step_passive, fun _ _ _ _ => step_overlapping⟩

/-- A command other than `LDCAL` means the same under any parameters. -/
theorem execWith_of_not_ldcal (p : Params) {i : Instr} (hi : i ≠ .ldcal) (s : State) : execWith p i s = exec i s := by
  cases i with
  | ldcal => exact absurd rfl hi
  | compt imm => rfl
  | compp imm => rfl
  | comph imm => rfl
  | rdreg idx => rfl

/-- The meanings under the default parameters are those of the machine. -/
theorem execWith_params : execWith Config.params = exec := by
  funext i s
  by_cases hi : i = .ldcal
  · subst hi
    rfl
  · exact execWith_of_not_ldcal Config.params hi s

/-- Settles O12: `LDCAL` under the default parameters is the machine's, and no other command reads them. -/
theorem parametersOnlyReachLdcal : Obligations.ParametersOnlyReachLdcal := by
  refine ⟨fun s => ?_, fun p i s hi => execWith_of_not_ldcal p hi s⟩
  rw [stepWith, execWith_params, step]

theorem zero_value (c : CoefName) : Coefs.zero.value c = 0 := by
  cases c <;> rfl

/-- Settles O13: the reset state evaluates. -/
theorem resetStateIsZero : Obligations.ResetStateIsZero :=
  ⟨zero_value, by decide, by decide, by decide, by decide, rfl, rfl, by decide⟩

end Sys2Proof.Machine
end

section
/-! SUPPORT. Proofs of the statements on `RDREG`, `STATUS` and `UninitializedError` (44_register_read.md, 10_state.md section 5, 60_exceptions.md section 1). -/

namespace Sys2Proof.Machine

/-! ### The status register (10_state.md R30) -/

/-- The value of `STATUS`. -/
theorem statusWord_toNat (s : State) :
    (statusWord s).toNat = (if s.calValid then 1 else 0) + 2 * (if s.tfSet then 1 else 0) := by
  unfold statusWord
  cases s.calValid <;> cases s.tfSet <;> rfl

/-- Settles O42: `STATUS` is the two flags' bits below 30 zeros. -/
theorem statusShowsTheTwoFlags : Obligations.StatusShowsTheTwoFlags := by
  intro s
  have hvalue := statusWord_toNat s
  have hlt : (statusWord s).toNat < 4 := by
    rw [hvalue]
    split <;> split <;> decide
  refine ⟨?_, ?_, fun i hi => ?_, hvalue⟩
  · unfold statusWord
    cases s.calValid <;> cases s.tfSet <;> rfl
  · unfold statusWord
    cases s.calValid <;> cases s.tfSet <;> rfl
  · have hpow : 2 ^ 2 ≤ 2 ^ i := Nat.pow_le_pow_right (by decide) hi
    exact Nat.testBit_lt_two_pow (hlt.trans_le hpow)

/-! ### The registers by their index (10_state.md R31) -/

/-- An unsigned register narrowed to a word is zero-extended. -/
theorem u32_toNat_eq_setWidth {n : Nat} (x : BitVec n) : u32 x.toNat = x.setWidth 32 := by
  apply BitVec.eq_of_toNat_eq
  rw [u32, BitVec.ofInt_natCast, BitVec.toNat_ofNat, BitVec.toNat_setWidth]

/-- A signed register narrowed to a word is sign-extended. -/
theorem u32_toInt_eq_signExtend {n : Nat} (x : BitVec n) : u32 x.toInt = x.signExtend 32 := rfl

/-- The statements' list of register values is the register table, read. -/
theorem registerWords_eq_map (s : State) : registerWords s = registerTable.map (readRegister s) := by
  have hstatus : BitVec.ofNat 32 ((if s.calValid then 1 else 0) + 2 * (if s.tfSet then 1 else 0)) = statusWord s := by
    rw [← statusWord_toNat, BitVec.ofNat_toNat, BitVec.setWidth_eq]
  simp only [registerWords, registerTable, List.map, readRegister, Coefs.word, Coefs.value, u32_toNat_eq_setWidth,
    u32_toInt_eq_signExtend, hstatus]

/-- What the register at an index reads as. -/
theorem registerWords_getElem? {s : State} {idx : Byte} {r : Reg} (h : regOfIndex idx = some r) :
    (registerWords s)[idx.toNat]? = some (readRegister s r) := by
  rw [registerWords_eq_map, List.getElem?_map, show registerTable[idx.toNat]? = some r from h]
  rfl

/-- The indices up to 0x11 name the coefficients. -/
theorem regOfIndex_coef {idx : Byte} (h : idx.toNat ≤ 0x11) : ∃ c, regOfIndex idx = some (.coef c) := by
  unfold regOfIndex
  generalize idx.toNat = n at h
  interval_cases n <;> exact ⟨_, rfl⟩

/-- The indices 0x12 to 0x16 name registers that are no coefficients. -/
theorem regOfIndex_plain {idx : Byte} (lo : 0x12 ≤ idx.toNat) (hi : idx.toNat ≤ 0x16) :
    ∃ r, regOfIndex idx = some r ∧ ∀ c, r ≠ .coef c := by
  unfold regOfIndex
  generalize idx.toNat = n at lo hi
  interval_cases n <;> exact ⟨_, rfl, fun _ h => Reg.noConfusion h⟩

/-- The indices from 0x17 upwards name nothing. -/
theorem regOfIndex_reserved {idx : Byte} (h : 0x17 ≤ idx.toNat) : regOfIndex idx = none :=
  List.getElem?_eq_none h

/-! ### One register read -/

/-- A register that may be read is answered, and nothing changes. -/
theorem exec_rdreg_readable {s : State} {idx : Byte} {r : Reg} (hr : regOfIndex idx = some r)
    (h : s.calValid = true ∨ ∀ c, r ≠ .coef c) :
    exec (.rdreg idx) s = .next { s with responses := okWord (readRegister s r) :: s.responses } := by
  rcases execRdreg_cases idx s with ⟨r', hr', e⟩ | ⟨c, hr', hcal, -⟩ | ⟨hr', -⟩
  · cases hr.symm.trans hr'
    exact e
  · cases hr.symm.trans hr'
    rcases h with hcal' | hplain
    · exact absurd (hcal.symm.trans hcal') (by decide)
    · exact absurd rfl (hplain c)
  · cases hr.symm.trans hr'

/-- A coefficient of an uncalibrated block is not answered. -/
theorem exec_rdreg_uncalibrated {s : State} {idx : Byte} (hidx : idx.toNat ≤ 0x11) (hcal : s.calValid = false) :
    exec (.rdreg idx) s = .next { s with responses := uninitWord :: s.responses } := by
  obtain ⟨c, hr⟩ := regOfIndex_coef hidx
  change execRdreg idx s = _
  rw [execRdreg, hr]
  exact congrArg Host.Outcome.next (requireCalibration_false hcal)

/-- Every index below 0x17 that may be read names a register that may be read. -/
theorem regOfIndex_readable {s : State} {idx : Byte} (hidx : idx.toNat ≤ 0x16)
    (h : s.calValid = true ∨ 0x12 ≤ idx.toNat) :
    ∃ r, regOfIndex idx = some r ∧ (s.calValid = true ∨ ∀ c, r ≠ .coef c) := by
  by_cases hlow : idx.toNat ≤ 0x11
  · obtain ⟨c, hr⟩ := regOfIndex_coef hlow
    exact ⟨_, hr, .inl (h.resolve_right (by omega))⟩
  · obtain ⟨r, hr, hplain⟩ := regOfIndex_plain (by omega) hidx
    exact ⟨r, hr, .inr hplain⟩

/-- Settles O41: the list of register values is the register table, read. -/
theorem rdregReturnsTheNamedRegister : Obligations.RdregReturnsTheNamedRegister := by
  refine fun s idx => ⟨fun hidx h => ?_, exec_rdreg_uncalibrated, fun hidx => ?_⟩
  · obtain ⟨r, hr, hreadable⟩ := regOfIndex_readable hidx h
    exact ⟨_, registerWords_getElem? hr, exec_rdreg_readable hr hreadable⟩
  · change execRdreg idx s = _
    rw [execRdreg, regOfIndex_reserved hidx]
    rfl

/-- Settles O43: one lemma per command and flag. -/
theorem uninitializedErrorHasNoEffect : Obligations.UninitializedErrorHasNoEffect := by
  rintro i s (⟨hcal, ⟨imm, rfl⟩ | ⟨imm, rfl⟩ | ⟨imm, rfl⟩ | ⟨idx, rfl, hidx⟩⟩ | ⟨hset, ⟨imm, rfl⟩ | ⟨imm, rfl⟩⟩)
  · exact exec_compt_uncalibrated hcal imm
  · exact exec_compp_unready (.inl hcal) imm
  · exact exec_comph_unready (.inl hcal) imm
  · exact exec_rdreg_uncalibrated hidx hcal
  · exact exec_compp_unready (.inr hset) imm
  · exact exec_comph_unready (.inr hset) imm

/-! ### Right after a reset (70_reset_and_hazards.md sections 1, 2) -/

/-- Every register that is no coefficient reads 0 after a reset. -/
theorem readRegister_resetBlock (s : State) {r : Reg} (h : ∀ c, r ≠ .coef c) : readRegister (resetBlock s) r = 0 := by
  cases r with
  | coef c => exact absurd rfl (h c)
  | tFine => rfl
  | tOut => rfl
  | pOut => rfl
  | hOut => rfl
  | status => exact BitVec.eq_of_toNat_eq (statusWord_toNat (resetBlock s))

/-- Settles O14: both flags are 0, so what needs them is refused; a load needs neither. -/
theorem afterResetOnlyLoadsAndPlainReadsSucceed : Obligations.AfterResetOnlyLoadsAndPlainReadsSucceed := by
  intro s
  have hcal := resetBlock_calValid s
  refine ⟨fun imm => ⟨exec_compt_uncalibrated hcal imm, exec_compp_unready (.inl hcal) imm,
    exec_comph_unready (.inl hcal) imm⟩, fun idx hidx => exec_rdreg_uncalibrated hidx hcal, fun idx lo hi => ?_,
    fun B1 B2 B3 q k h => ?_⟩
  · obtain ⟨r, hr, hplain⟩ := regOfIndex_plain lo hi
    rw [exec_rdreg_readable hr (.inr hplain), readRegister_resetBlock s hplain]
    rfl
  · have h' : BurstsSucceed (resetBlock s) B1 B2 B3 q k := h
    exact ⟨_, exec_ldcal_of_burstsSucceed h', rfl, rfl, rfl⟩

end Sys2Proof.Machine
end

section
/-! SUPPORT. Proofs of the statements on the three compensation formulas: temperature bounds and exactness (41_compensate_temperature.md), pressure and humidity as 64-bit words (42_compensate_pressure.md, 43_compensate_humidity.md). -/

namespace Sys2Proof.Machine

/-! ### Temperature (41_compensate_temperature.md R141, R143, R145) -/

/-- Settles O29: each stage is a wrapped value shifted right, so the later stages have room. -/
theorem temperatureStaysInBounds : Obligations.TemperatureStaysInBounds := by
  intro c imm var1 var2 tf
  obtain ⟨lo, hi⟩ : -1179648 ≤ tf ∧ tf ≤ 1179646 := fineTemperature_bounds _ _ _ _
  exact ⟨tempVar1_bounds _ _ _, tempVar2_bounds _ _ _, fineTemperature_eq_add _ _ _ _, ⟨lo, hi⟩,
    temperature_eq_floor lo hi, temperature_bounds lo hi⟩

/-- The integer and the word formula for the new `T_FINE` agree on every coefficient file. -/
theorem fineTemperatureWord_toInt (c : Coefs) (imm : Word) :
    (fineTemperatureWord c imm).toInt =
      fineTemperature (c.value .t1) (c.value .t2) (c.value .t3) (immOperand imm) :=
  (newFine_eq_toInt { State.reset with coef := c } imm).symm

/-- `var1` is exact where its product fits. -/
theorem tempVar1_exact (imm : Word) (T1 : Half) (T2 : Int)
    (h : -2147483648 ≤ (imm.toInt / 8 - 2 * (T1.toNat : Int)) * T2 ∧
      (imm.toInt / 8 - 2 * (T1.toNat : Int)) * T2 ≤ 2147483647) :
    tempVar1 T1.toNat T2 (immOperand imm) = (imm.toInt / 8 - 2 * (T1.toNat : Int)) * T2 / 2048 := by
  simp only [tempVar1, sub_asr3_shl1_exact]
  have hmul : mul 32 (imm.toInt / 8 - 2 * (T1.toNat : Int)) T2 = _ := wrap_of_fits (by omega) (by omega)
  rw [hmul]
  rfl

/-- `var2` is exact where the square and its product fit. -/
theorem tempVar2_exact (imm : Word) (T1 : Half) (T3 : Int) {d : Int}
    (hd : d = (imm.toInt / 16 - (T1.toNat : Int)) * (imm.toInt / 16 - (T1.toNat : Int))) (hfits : d ≤ 2147483647)
    (h : -2147483648 ≤ d / 4096 * T3 ∧ d / 4096 * T3 ≤ 2147483647) :
    tempVar2 T1.toNat T3 (immOperand imm) = d / 4096 * T3 / 16384 := by
  have hnonneg : 0 ≤ d := hd ▸ mul_self_nonneg _
  have hsq : mul 32 (imm.toInt / 16 - (T1.toNat : Int)) (imm.toInt / 16 - (T1.toNat : Int)) = d := by
    rw [mul, ← hd]
    exact wrap_of_fits (by omega) (by omega)
  have hmul : mul 32 (d / 4096) T3 = d / 4096 * T3 := wrap_of_fits (by omega) (by omega)
  simp only [tempVar2, sub_asr4_exact, hsq]
  rw [show asr d 12 = d / 4096 from rfl, hmul]
  rfl

/-- Settles O30: where the products fit, no stage wraps. -/
theorem temperatureIsExactWhenProductsFit : Obligations.TemperatureIsExactWhenProductsFit := by
  intro c imm x T1 T2 T3 b d hb hd hdT3
  rw [fineTemperatureWord_toInt, fineTemperature_eq_add]
  exact congrArg₂ (· + ·) (tempVar1_exact imm c.t1 T2 hb) (tempVar2_exact imm c.t1 T3 rfl hd hdT3)

/-- Words that agree but for their low three bits agree when shifted right by 3. -/
theorem toInt_div_eight_eq {x y : Word} (h : x.toNat / 8 = y.toNat / 8) : x.toInt / 8 = y.toInt / 8 := by
  rw [BitVec.toInt_eq_toNat_cond, BitVec.toInt_eq_toNat_cond]
  omega

/-- The new `T_FINE` sees the operand shifted right by 3 only. -/
theorem newFine_congr (s : State) {imm imm' : Word} (h : imm.toInt / 8 = imm'.toInt / 8) :
    s.newFine imm = s.newFine imm' := by
  have h3 : asr (immOperand imm) 3 = asr (immOperand imm') 3 := h
  have h4 : asr (immOperand imm) 4 = asr (immOperand imm') 4 := by
    simp only [asr, immOperand]
    omega
  simp only [State.newFine, fineTemperature, tempVar1, tempVar2, h3, h4]

/-- Settles O32: both shifts of the operand drop its low three bits. -/
theorem comptIgnoresLowThreeBits : Obligations.ComptIgnoresLowThreeBits := by
  intro s imm imm' h
  have hfine := newFine_congr s (toInt_div_eight_eq h)
  change execCompt imm s = execCompt imm' s
  rcases hcal : s.calValid with _ | _
  · rw [execCompt_uncalibrated hcal, execCompt_uncalibrated hcal]
  · rw [execCompt_calibrated hcal, execCompt_calibrated hcal, hfine]

/-! ### Registers as 64-bit words -/

/-- A signed register read as an integer is the value of its sign-extended 64-bit word. -/
theorem toInt_eq_toInt_signExtend64 {n : Nat} (hn : n ≤ 64) (x : BitVec n) : x.toInt = (x.signExtend 64).toInt :=
  (BitVec.toInt_signExtend_of_le hn).symm

/-- An unsigned register read as an integer is the value of its zero-extended 64-bit word. -/
theorem toNat_eq_toInt_setWidth64 {n : Nat} (hn : n < 64) (x : BitVec n) : (x.toNat : Int) = (x.setWidth 64).toInt := by
  rw [BitVec.toInt_setWidth, Int.bmod_eq_of_le_mul_two]
  all_goals
    have hx : x.toNat < 2 ^ 63 := x.isLt.trans_le (Nat.pow_le_pow_right (by decide) (by omega))
    push_cast
    omega

/-! ### Pressure as 64-bit words (42_compensate_pressure.md R150, R154) -/

section Pressure
variable (c : Coefs) (tf : Word)

theorem pressA_toInt : pressA tf.toInt = (tf.signExtend 64 - 128000).toInt := by
  rw [← sub_toInt, ← toInt_eq_toInt_signExtend64 (by decide)]
  rfl

/-- The integer denominator is the value of the vendor's. -/
theorem pressD_toInt : pressD c tf.toInt = (pressureDenominatorWord c tf).toInt := by
  have h47 : (2 ^ 47 : Int) = (1#64 <<< 47).toInt := by decide
  simp only [pressD, pressC, pressSq, pressA_toInt, Coefs.value, toInt_eq_toInt_signExtend64 (n := 16) (by decide),
    toNat_eq_toInt_setWidth64 (n := 16) (by decide), h47, mul_toInt, add_toInt, asr_toInt, shl_toInt,
    pressureDenominatorWord]

/-- The vendor's `var2` before the division. -/
def pressureOffsetWord : BitVec 64 :=
  let var1 : BitVec 64 := tf.signExtend 64 - 128000
  var1 * var1 * c.p6.signExtend 64 + ((var1 * c.p5.signExtend 64) <<< 17) + (c.p4.signExtend 64 <<< 35)

theorem pressB_toInt : pressB c tf.toInt = (pressureOffsetWord c tf).toInt := by
  simp only [pressB, pressSq, pressA_toInt, Coefs.value, toInt_eq_toInt_signExtend64 (n := 16) (by decide), mul_toInt,
    add_toInt, shl_toInt, pressureOffsetWord]

/-- The vendor's quotient. -/
def pressureQuotientWord (adc : Word) : BitVec 64 :=
  ((((1048576 - adc.signExtend 64) <<< 31) - pressureOffsetWord c tf) * 3125).sdiv (pressureDenominatorWord c tf)

theorem pressQuotient_toInt (adc : Word) :
    pressQuotient c tf.toInt adc.toInt = (pressureQuotientWord c tf adc).toInt := by
  have h1048576 : (1048576 : Int) = (1048576 : BitVec 64).toInt := by decide
  have h3125 : (3125 : Int) = (3125 : BitVec 64).toInt := by decide
  rw [pressureQuotientWord, ← sdiv64_toInt, ← mul_toInt, ← sub_toInt, ← shl_toInt, ← sub_toInt, ← pressB_toInt,
    ← pressD_toInt, ← toInt_eq_toInt_signExtend64 (by decide), ← h1048576, ← h3125]
  rfl

/-- The vendor's last lines, from the quotient. -/
def pressureFinalWord (p : BitVec 64) : BitVec 64 :=
  (p + (c.p9.signExtend 64 * p.sshiftRight 13 * p.sshiftRight 13).sshiftRight 25 +
    (c.p8.signExtend 64 * p).sshiftRight 19).sshiftRight 8 + (c.p7.signExtend 64 <<< 4)

theorem pressFinal_toInt (p : BitVec 64) : pressFinal c p.toInt = (pressureFinalWord c p).toInt := by
  simp only [pressFinal, Coefs.value, toInt_eq_toInt_signExtend64 (n := 16) (by decide), mul_toInt, add_toInt,
    asr_toInt, shl_toInt, pressureFinalWord]

/-- The vendor's routine, by its named parts. -/
theorem pressureWord_eq (adc : Word) :
    pressureWord c tf adc =
      if pressureDenominatorWord c tf = 0 then 0
      else (pressureFinalWord c (pressureQuotientWord c tf adc)).setWidth 32 := rfl

/-- The division guard of the two readings is the same. -/
theorem pressD_eq_zero_iff : pressD c tf.toInt = 0 ↔ pressureDenominatorWord c tf = 0 := by
  rw [pressD_toInt, ← BitVec.toInt_inj]
  rfl

/-- The stored pressure is the vendor's word. -/
theorem u32_pressure (adc : Word) : u32 (pressure c tf.toInt adc.toInt) = pressureWord c tf adc := by
  rw [pressure, pressureWord_eq]
  by_cases h : pressureDenominatorWord c tf = 0
  · rw [if_pos h, if_pos ((pressD_eq_zero_iff c tf).mpr h)]
    rfl
  · rw [if_neg h, if_neg (mt (pressD_eq_zero_iff c tf).mp h), pressQuotient_toInt, pressFinal_toInt, u32_toInt64]

end Pressure

/-- What a `COMPP` on a ready block does, in the words of the vendor's routine. -/
theorem exec_compp_ready {s : State} (hcal : s.calValid = true) (hset : s.tfSet = true) (imm : Word) :
    exec (.compp imm) s = .next { s with
      pOut := pressureWord s.coef s.tFine imm
      responses := okWord (pressureWord s.coef s.tFine imm) :: s.responses } := by
  have hexec : exec (.compp imm) s = .next (commitPressure (pressure s.coef s.tFine.toInt imm.toInt) s) :=
    execCompp_ready hcal hset imm
  rw [hexec, commitPressure_eq, u32_pressure]
  rfl

/-- Settles O34: the integer meaning is the vendor's routine, and either clear flag raises the fault. -/
theorem comppComputesPressure : Obligations.ComppComputesPressure :=
  ⟨fun _ imm hcal hset => exec_compp_ready hcal hset imm, fun _ imm h => exec_compp_unready h imm⟩

theorem pressureWord_of_guard {c : Coefs} {tf : Word} (h : pressureDenominatorWord c tf = 0) (adc : Word) :
    pressureWord c tf adc = 0 := by
  rw [pressureWord_eq, if_pos h]

/-- Settles O35: the guard answers 0, `P1 = 0` makes the denominator a product with 0, and the example evaluates. -/
theorem pressureGuardReturnsZero : Obligations.PressureGuardReturnsZero := by
  refine ⟨fun s imm hcal hset hguard => ?_, fun c tf hp1 => ?_, fun c hp2 hp3 => ?_⟩
  · rw [exec_compp_ready hcal hset, pressureWord_of_guard hguard]
  · have hfactor : (0 : Half).setWidth 64 = 0#64 := by decide
    simp only [pressureDenominatorWord, hp1, hfactor, BitVec.mul_zero]
    decide
  · have hsum : (1#64 <<< 47) +
        ((((1176576 : Word).signExtend 64 - 128000) * ((1176576 : Word).signExtend 64 - 128000) *
          (0 : Half).signExtend 64).sshiftRight 8 +
          ((((1176576 : Word).signExtend 64 - 128000) * (-32768 : Half).signExtend 64) <<< 12)) = 0#64 := by decide
    simp only [pressureDenominatorWord, hp2, hp3, hsum, BitVec.zero_mul]
    decide

/-- The vendor's routine depends on no coefficient but `P1` to `P9`. -/
theorem pressureWord_congr {c c' : Coefs} (h1 : c.p1 = c'.p1) (h2 : c.p2 = c'.p2) (h3 : c.p3 = c'.p3)
    (h4 : c.p4 = c'.p4) (h5 : c.p5 = c'.p5) (h6 : c.p6 = c'.p6) (h7 : c.p7 = c'.p7) (h8 : c.p8 = c'.p8)
    (h9 : c.p9 = c'.p9) (tf adc : Word) : pressureWord c tf adc = pressureWord c' tf adc := by
  have hden : pressureDenominatorWord c tf = pressureDenominatorWord c' tf := by
    simp only [pressureDenominatorWord, h1, h2, h3]
  have hquot : pressureQuotientWord c tf adc = pressureQuotientWord c' tf adc := by
    simp only [pressureQuotientWord, pressureOffsetWord, hden, h4, h5, h6]
  have hfinal : ∀ p, pressureFinalWord c p = pressureFinalWord c' p := fun p => by
    simp only [pressureFinalWord, h7, h8, h9]
  rw [pressureWord_eq, pressureWord_eq, hden, hquot, hfinal]

/-- The two pressures of the spec's example (42_compensate_pressure.md R153). -/
theorem pressureWord_example {c : Coefs} (h1 : c.p1 = 36477) (h2 : c.p2 = -10685) (h3 : c.p3 = 3024)
    (h4 : c.p4 = 2855) (h5 : c.p5 = 140) (h6 : c.p6 = -7) (h7 : c.p7 = 15500) (h8 : c.p8 = -14600)
    (h9 : c.p9 = 6000) :
    pressureWord c 128422 415148 = 25767233 ∧ pressureWord c 262276 415148 = 26803502 := by
  have hcongr := pressureWord_congr (c' := readyAfterExampleCompt.coef) h1 h2 h3 h4 h5 h6 h7 h8 h9
  rw [hcongr, hcongr]
  decide

/-- Settles O36: the answer is a word that the operand, `T_FINE` and `P1` to `P9` determine; the examples evaluate. -/
theorem comppUsesTheLastFineTemperature : Obligations.ComppUsesTheLastFineTemperature := by
  refine ⟨fun s s' imm hcal hset hcal' hset' htf h1 h2 h3 h4 h5 h6 h7 h8 h9 => ?_,
    fun s imm _ hset => exec_compp_unready (.inr hset) imm, fun s hcal hset h1 h2 h3 h4 h5 h6 h7 h8 h9 => ?_⟩
  · have hword := pressureWord_congr h1 h2 h3 h4 h5 h6 h7 h8 h9 s.tFine imm
    refine ⟨_, _, _, exec_compp_ready hcal hset imm, exec_compp_ready hcal' hset' imm, rfl, ?_⟩
    rw [hword, htf]
  · obtain ⟨hfresh, hstale⟩ := pressureWord_example h1 h2 h3 h4 h5 h6 h7 h8 h9
    exact ⟨fun htf => by rw [exec_compp_ready hcal hset, htf, hfresh],
      fun htf => by rw [exec_compp_ready hcal hset, htf, hstale]⟩

/-! ### The meaning of the stored pressure (42_compensate_pressure.md R152) -/

/-- A stored word is the value modulo 2^32. -/
theorem u32_toNat (x : Int) : ((u32 x).toNat : Int) = x % 2 ^ 32 := by
  rw [u32, BitVec.toNat_ofInt]
  omega

/-- The vendor's word is the computed pressure modulo 2^32. -/
theorem pressureWord_toNat (c : Coefs) (tf adc : Word) :
    ((pressureWord c tf adc).toNat : Rat) = ((pressure c tf.toInt adc.toInt % 2 ^ 32 : Int) : Rat) := by
  rw [← u32_toNat, u32_pressure]
  norm_cast

/-- Any stored pressure stands for less than 2^24 Pa. -/
theorem pascal_bounds (w : Word) : 0 ≤ pascal w ∧ pascal w < 2 ^ 24 := by
  have hw : (w.toNat : Rat) < 2 ^ 32 := by exact_mod_cast w.isLt
  refine ⟨by unfold pascal; positivity, ?_⟩
  rw [pascal, div_lt_iff₀ (by norm_num)]
  exact hw.trans_eq (by norm_num)

/-- Settles O37: `P_OUT` is the vendor's word, read as an unsigned number of 1/256 Pa. -/
theorem pressureScales : Obligations.PressureScales := by
  refine ⟨fun s imm hcal hset => ?_, fun s hcal hset htf h1 h2 h3 h4 h5 h6 h7 h8 h9 => ?_, ?_⟩
  · have hvalue := pressureWord_toNat s.coef s.tFine imm
    obtain ⟨lo, hi⟩ := pascal_bounds (pressureWord s.coef s.tFine imm)
    exact ⟨_, exec_compp_ready hcal hset imm, rfl, congrArg (· / 256) hvalue, congrArg (· / 25600) hvalue, lo, hi⟩
  · obtain ⟨hfresh, -⟩ := pressureWord_example h1 h2 h3 h4 h5 h6 h7 h8 h9
    refine ⟨_, exec_compp_ready hcal hset _, ?_⟩
    have hvalue : (25767233 : Word).toNat = 25767233 := by decide
    rw [htf, hfresh, pascal, hvalue]
    norm_num
  · have hvalue : (24674867 : Word).toNat = 24674867 := by decide
    rw [hectopascal, hvalue]
    norm_num

/-! ### Humidity as 64-bit words (43_compensate_humidity.md R160, R163) -/

section Humidity
variable (c : Coefs) (tf adc : Word)

theorem humX_toInt : humX tf.toInt = (tf.signExtend 64 - 76800).toInt := by
  rw [← sub_toInt, ← toInt_eq_toInt_signExtend64 (by decide)]
  rfl

/-- The vendor's left factor. -/
def humidityAdcWord : BitVec 64 :=
  (((adc.signExtend 64 <<< 14) - (c.h4.signExtend 64 <<< 20) - (c.h5.signExtend 64 * (tf.signExtend 64 - 76800))) +
    16384).sshiftRight 15

theorem humA_toInt : humA c tf.toInt adc.toInt = (humidityAdcWord c tf adc).toInt := by
  have h16384 : (16384 : Int) = (16384 : BitVec 64).toInt := by decide
  rw [humidityAdcWord, ← asr_toInt, ← add_toInt, ← sub_toInt, ← sub_toInt, ← shl_toInt, ← shl_toInt, ← mul_toInt,
    ← humX_toInt, ← toInt_eq_toInt_signExtend64 (by decide), ← toInt_eq_toInt_signExtend64 (by decide),
    ← toInt_eq_toInt_signExtend64 (by decide), ← h16384]
  rfl

/-- The vendor's right factor. -/
def humidityScaleWord : BitVec 64 :=
  (((((((tf.signExtend 64 - 76800) * c.h6.signExtend 64).sshiftRight 10) *
    ((((tf.signExtend 64 - 76800) * c.h3.setWidth 64).sshiftRight 11) + 32768)).sshiftRight 10) + 2097152) *
      c.h2.signExtend 64 + 8192).sshiftRight 14

theorem humC_toInt : humC c tf.toInt = (humidityScaleWord c tf).toInt := by
  have h32768 : (32768 : Int) = (32768 : BitVec 64).toInt := by decide
  have h2097152 : (2097152 : Int) = (2097152 : BitVec 64).toInt := by decide
  have h8192 : (8192 : Int) = (8192 : BitVec 64).toInt := by decide
  simp only [humC, humX_toInt, Coefs.value, toInt_eq_toInt_signExtend64 (n := 16) (by decide),
    toInt_eq_toInt_signExtend64 (n := 8) (by decide), toNat_eq_toInt_setWidth64 (n := 8) (by decide), h32768, h2097152,
    h8192, mul_toInt, add_toInt, asr_toInt, humidityScaleWord]

/-- The vendor's value before the clamps, by its named parts. -/
theorem humidityPreClampWord_eq :
    humidityPreClampWord c tf adc =
      let v := humidityAdcWord c tf adc * humidityScaleWord c tf
      v - ((((v.sshiftRight 15 * v.sshiftRight 15).sshiftRight 7) * c.h1.setWidth 64).sshiftRight 4) := rfl

/-- The integer value before the clamps is the vendor's. -/
theorem humPreClamp_toInt : humPreClamp c tf.toInt adc.toInt = (humidityPreClampWord c tf adc).toInt := by
  simp only [humPreClamp, humA_toInt, humC_toInt, Coefs.value, toNat_eq_toInt_setWidth64 (n := 8) (by decide),
    mul_toInt, asr_toInt, sub_toInt, humidityPreClampWord_eq]

end Humidity

/-- The lower clamp on 64-bit words (43_compensate_humidity.md R161). -/
def clampBelowWord (v : BitVec 64) : BitVec 64 := if v.slt 0 then 0 else v

/-- The upper clamp on 64-bit words (43_compensate_humidity.md R161). -/
def clampAboveWord (v : BitVec 64) : BitVec 64 := if (419430400#64).slt v then 419430400 else v

theorem clampBelowWord_toInt (v : BitVec 64) : (clampBelowWord v).toInt = max v.toInt 0 := by
  have h0 : (0 : BitVec 64).toInt = 0 := by decide
  unfold clampBelowWord
  split
  next h => rw [BitVec.slt_iff_toInt_lt, h0] at h; omega
  next h => rw [BitVec.slt_iff_toInt_lt, h0] at h; omega

theorem clampAboveWord_toInt (v : BitVec 64) : (clampAboveWord v).toInt = min v.toInt 419430400 := by
  have hmax : (419430400#64).toInt = 419430400 := by decide
  unfold clampAboveWord
  split
  next h => rw [BitVec.slt_iff_toInt_lt, hmax] at h; exact hmax.trans (by omega)
  next h => rw [BitVec.slt_iff_toInt_lt, hmax] at h; omega

/-- The clamps of the two readings are the same. -/
theorem humClamp_toInt (v : BitVec 64) : humClamp v.toInt = (clampAboveWord (clampBelowWord v)).toInt := by
  rw [humClamp, clampAboveWord_toInt, clampBelowWord_toInt]

/-- The vendor's routine, by its named parts. -/
theorem humidityWord_eq (c : Coefs) (tf adc : Word) :
    humidityWord c tf adc =
      ((clampAboveWord (clampBelowWord (humidityPreClampWord c tf adc))).sshiftRight 12).setWidth 32 := rfl

/-- The stored humidity is the vendor's word. -/
theorem u32_humidity (c : Coefs) (tf adc : Word) : u32 (humidity c tf.toInt adc.toInt) = humidityWord c tf adc := by
  rw [humidity, humPreClamp_toInt, humClamp_toInt, asr_toInt, u32_toInt64, humidityWord_eq]

/-- What a `COMPH` on a ready block does, in the words of the vendor's routine. -/
theorem exec_comph_ready {s : State} (hcal : s.calValid = true) (hset : s.tfSet = true) (imm : Word) :
    exec (.comph imm) s = .next { s with
      hOut := humidityWord s.coef s.tFine imm
      responses := okWord (humidityWord s.coef s.tFine imm) :: s.responses } := by
  have hexec : exec (.comph imm) s = .next (commitHumidity (humidity s.coef s.tFine.toInt imm.toInt) s) :=
    execComph_ready hcal hset imm
  rw [hexec, commitHumidity_eq, u32_humidity]
  rfl

/-- Settles O38: the integer meaning is the vendor's routine, and either clear flag raises the fault. -/
theorem comphComputesHumidity : Obligations.ComphComputesHumidity :=
  ⟨fun _ imm hcal hset => exec_comph_ready hcal hset imm, fun _ imm h => exec_comph_unready h imm⟩

/-- The stored humidity is the clamped value divided by 4096 with floor. -/
theorem humidityWord_toNat (c : Coefs) (tf adc : Word) :
    ((humidityWord c tf adc).toNat : Int) = min (max (humidityPreClampWord c tf adc).toInt 0) 419430400 / 4096 := by
  obtain ⟨lo, hi⟩ := humidity_bounds c tf.toInt adc.toInt
  rw [← u32_humidity, u32_toNat_of_fits lo (by omega), humidity, humPreClamp_toInt]
  rfl

/-- Settles O39: the clamp bounds the value before the shift, and the shift divides the bound. -/
theorem humidityIsClampedBeforeTheShift : Obligations.HumidityIsClampedBeforeTheShift := by
  intro s imm hcal hset
  have hvalue := humidityWord_toNat s.coef s.tFine imm
  have hbound : (humidityWord s.coef s.tFine imm).toNat ≤ 102400 := by omega
  refine ⟨_, exec_comph_ready hcal hset imm, rfl, hvalue, hbound, ?_⟩
  have hcast : ((humidityWord s.coef s.tFine imm).toNat : Rat) ≤ 102400 := by exact_mod_cast hbound
  rw [percentHumidity, div_le_iff₀ (by norm_num)]
  exact hcast.trans_eq (by norm_num)

/-- The vendor's routine depends on no coefficient but `H1` to `H6`. -/
theorem humidityWord_congr {c c' : Coefs} (h1 : c.h1 = c'.h1) (h2 : c.h2 = c'.h2) (h3 : c.h3 = c'.h3)
    (h4 : c.h4 = c'.h4) (h5 : c.h5 = c'.h5) (h6 : c.h6 = c'.h6) (tf adc : Word) :
    humidityWord c tf adc = humidityWord c' tf adc := by
  have hpre : humidityPreClampWord c tf adc = humidityPreClampWord c' tf adc := by
    simp only [humidityPreClampWord, h1, h2, h3, h4, h5, h6]
  rw [humidityWord_eq, humidityWord_eq, hpre]

/-- The two humidities of the spec's example (43_compensate_humidity.md R164). -/
theorem humidityWord_example {c : Coefs} (h1 : c.h1 = 75) (h2 : c.h2 = 370) (h3 : c.h3 = 0) (h4 : c.h4 = 300)
    (h5 : c.h5 = 50) (h6 : c.h6 = 30) :
    humidityWord c 128422 30000 = 62390 ∧ humidityWord c 262276 30000 = 63496 := by
  have hcongr := humidityWord_congr (c' := readyAfterExampleCompt.coef) h1 h2 h3 h4 h5 h6
  rw [hcongr, hcongr]
  decide

/-- Settles O40: the answer is a word that the operand, `T_FINE` and `H1` to `H6` determine; the examples evaluate. -/
theorem comphUsesTheLastFineTemperature : Obligations.ComphUsesTheLastFineTemperature := by
  refine ⟨fun s s' imm hcal hset hcal' hset' htf h1 h2 h3 h4 h5 h6 => ?_,
    fun s imm _ hset => exec_comph_unready (.inr hset) imm, fun s hcal hset h1 h2 h3 h4 h5 h6 => ?_⟩
  · have hword := humidityWord_congr h1 h2 h3 h4 h5 h6 s.tFine imm
    refine ⟨_, _, _, exec_comph_ready hcal hset imm, exec_comph_ready hcal' hset' imm, rfl, ?_⟩
    rw [hword, htf]
  · obtain ⟨hfresh, hstale⟩ := humidityWord_example h1 h2 h3 h4 h5 h6
    exact ⟨fun htf => by rw [exec_comph_ready hcal hset, htf, hfresh],
      fun htf => by rw [exec_comph_ready hcal hset, htf, hstale]⟩

/-! ### The three commands together -/

/-- Settles O44: with its flags set each command answers the word it stores, and any bytes load. -/
theorem compensationNeverFaultsOnValues : Obligations.CompensationNeverFaultsOnValues := by
  refine ⟨fun s imm hcal => ⟨_, exec_compt_calibrated hcal imm, rfl⟩, fun s imm hcal hset => ⟨?_, ?_⟩,
    fun s B1 B2 B3 q k h => ⟨_, exec_ldcal_of_burstsSucceed h, rfl⟩⟩
  · exact ⟨_, exec_compp_ready hcal hset imm, rfl, fun hguard => pressureWord_of_guard hguard imm⟩
  · exact ⟨_, exec_comph_ready hcal hset imm, rfl⟩

/-- A step on the encoding of a well-formed command runs the command. -/
theorem step_encoded {s : State} {i : Instr} {rest : List HostInput} (hi : s.inputs = .command (encode i) :: rest)
    (hwf : i.wellFormed = true) : step s = exec i { s with inputs := rest } :=
  step_command hi (decode_encode hwf)

section Steps
variable {s : State} {imm : Word} {rest : List HostInput}

theorem step_compt_calibrated (hi : s.inputs = .command (encode (.compt imm)) :: rest) (hcal : s.calValid = true) :
    step s = .next { s with
      inputs := rest
      tFine := fineTemperatureWord s.coef imm
      tfSet := true
      tOut := temperatureWord (fineTemperatureWord s.coef imm)
      responses := okWord (temperatureWord (fineTemperatureWord s.coef imm)) :: s.responses } :=
  (step_encoded hi rfl).trans (exec_compt_calibrated (s := { s with inputs := rest }) hcal imm)

theorem step_compp_ready (hi : s.inputs = .command (encode (.compp imm)) :: rest) (hcal : s.calValid = true)
    (hset : s.tfSet = true) :
    step s = .next { s with
      inputs := rest
      pOut := pressureWord s.coef s.tFine imm
      responses := okWord (pressureWord s.coef s.tFine imm) :: s.responses } :=
  (step_encoded hi rfl).trans (exec_compp_ready (s := { s with inputs := rest }) hcal hset imm)

theorem step_comph_ready (hi : s.inputs = .command (encode (.comph imm)) :: rest) (hcal : s.calValid = true)
    (hset : s.tfSet = true) :
    step s = .next { s with
      inputs := rest
      hOut := humidityWord s.coef s.tFine imm
      responses := okWord (humidityWord s.coef s.tFine imm) :: s.responses } :=
  (step_encoded hi rfl).trans (exec_comph_ready (s := { s with inputs := rest }) hcal hset imm)

end Steps

/-- Settles O54: three steps, each on the state the one before leaves; the first sets `T_FINE` and `TF_SET`. -/
theorem compallUsesItsOwnTemperature : Obligations.CompallUsesItsOwnTemperature := by
  intro s t p h rest hcal hi tf
  refine (run_succ_of_next (step_compt_calibrated hi hcal) 2).trans ?_
  refine (run_succ_of_next (step_compp_ready (by rfl) (by exact hcal) (by rfl)) 1).trans ?_
  exact run_succ_of_next (step_comph_ready (by rfl) (by exact hcal) (by rfl)) 0

end Sys2Proof.Machine
end

section
/-! SUPPORT. Proof of the statement on the assembler (30_encoding.md section 6). -/

namespace Sys2Proof.Machine

/-! ### What each mnemonic makes of its operand -/

theorem assemble_compt (x : List Char) :
    assembleOperation "COMPT".toList [x] = (parseImm x).map fun v => [encode (.compt v)] := by
  rw [assembleOperation, if_neg (by decide), if_neg (by decide)]
  exact if_pos rfl

theorem assemble_compp (x : List Char) :
    assembleOperation "COMPP".toList [x] = (parseImm x).map fun v => [encode (.compp v)] := by
  rw [assembleOperation, if_neg (by decide), if_neg (by decide)]
  exact (if_neg (by decide)).trans (if_pos rfl)

theorem assemble_comph (x : List Char) :
    assembleOperation "COMPH".toList [x] = (parseImm x).map fun v => [encode (.comph v)] := by
  rw [assembleOperation, if_neg (by decide), if_neg (by decide)]
  exact (if_neg (by decide)).trans ((if_neg (by decide)).trans (if_pos rfl))

theorem assemble_rdreg (x : List Char) :
    assembleOperation "RDREG".toList [x] = (parseReg x).map fun v => [encode (.rdreg v)] := by
  rw [assembleOperation, if_neg (by decide), if_neg (by decide)]
  exact (if_neg (by decide)).trans ((if_neg (by decide)).trans ((if_neg (by decide)).trans (if_pos rfl)))

theorem assemble_compall {a b c : List Char} {t p h : Word} (ha : parseImm a = some t) (hb : parseImm b = some p)
    (hc : parseImm c = some h) :
    assembleOperation "COMPALL".toList [a, b, c] = some ((Instr.compall t p h).map encode) := by
  rw [assembleOperation, if_neg (by decide), if_pos rfl]
  simp only [ha, hb, hc]

/-! ### Immediates -/

theorem parseImm_of_fits {text : List Char} {v : Int} (h : parseInteger text = some v) (lo : -(2 ^ 31) ≤ v)
    (hi : v ≤ 2 ^ 32 - 1) : parseImm text = some (BitVec.ofInt 32 v) := by
  simp only [parseImm, h]
  exact if_pos ⟨lo, hi⟩

theorem parseImm_of_not_fits {text : List Char} {v : Int} (h : parseInteger text = some v)
    (hv : v < -(2 ^ 31) ∨ 2 ^ 32 - 1 < v) : parseImm text = none := by
  simp only [parseImm, h]
  exact if_neg (by omega)

/-! ### Registers -/

/-- The name of the register at an index is found at that index. -/
theorem findIdx_regName :
    ∀ n : Fin 23, registerTable.findIdx? (fun r => decide ((regName r).toList = (regName registerTable[n]).toList)) =
      some n.val := by decide

/-- A text found among the names stands for its position there. -/
theorem parseReg_of_findIdx {text : List Char} {n : Nat}
    (h : registerTable.findIdx? (fun r => decide ((regName r).toList = text)) = some n) :
    parseReg text = some (BitVec.ofNat 8 n) := by
  simp only [parseReg, h]

/-- A register's name stands for its index. -/
theorem parseReg_regName {idx : Byte} {r : Reg} (h : regOfIndex idx = some r) :
    parseReg (regName r).toList = some idx := by
  obtain ⟨hlt, rfl⟩ := List.getElem?_eq_some_iff.mp h
  refine (parseReg_of_findIdx (findIdx_regName ⟨idx.toNat, hlt⟩)).trans ?_
  rw [BitVec.ofNat_toNat, BitVec.setWidth_eq]

/-- No register's name is a number. -/
theorem parseNatural_regName : ∀ r ∈ registerTable, parseNatural (regName r).toList = none := by decide

/-- A number is looked up as a number. -/
theorem parseReg_of_natural {text : List Char} {n : Nat} (h : parseNatural text = some n) :
    parseReg text = if n ≤ 255 then some (BitVec.ofNat 8 n) else none := by
  have hnone : registerTable.findIdx? (fun r => decide ((regName r).toList = text)) = none := by
    rw [List.findIdx?_eq_none_iff]
    intro r hr
    rw [decide_eq_false_iff_not]
    rintro rfl
    cases (parseNatural_regName r hr).symm.trans h
  simp only [parseReg, hnone, h]

/-- The encoding of `RDREG`, its three fields one after the other. -/
theorem encode_rdreg_fields (idx : Byte) : encode (.rdreg idx) = (0x05 : Byte) ++ (0 : BitVec 24) ++ idx := by
  rw [BitVec.append_assoc]
  exact (BitVec.cast_eq _ _).symm

/-- Settles O55: each mnemonic encodes what its operand text stands for. -/
theorem assemblyGivesTheTabledWords : Obligations.AssemblyGivesTheTabledWords := by
  refine ⟨fun text v hv => ⟨fun lo hi => ?_, fun hout => ?_⟩, fun idx r hr => ?_, fun text n hn => ⟨fun hle => ?_,
    fun hgt => ?_⟩, rfl, fun a b c t p h ha hb hc ht hp hh => ?_⟩
  · rw [assemble_compt, assemble_compp, assemble_comph, parseImm_of_fits hv lo hi]
    exact ⟨rfl, rfl, rfl⟩
  · rw [assemble_compt, assemble_compp, assemble_comph, parseImm_of_not_fits hv hout]
    exact ⟨rfl, rfl, rfl⟩
  · rw [assemble_rdreg, parseReg_regName hr, ← encode_rdreg_fields]
    rfl
  · rw [assemble_rdreg, parseReg_of_natural hn, if_pos hle]
    rfl
  · rw [assemble_rdreg, parseReg_of_natural hn, if_neg (by omega)]
    rfl
  · exact assemble_compall (parseImm_of_fits ha ht.1 ht.2) (parseImm_of_fits hb hp.1 hp.2)
      (parseImm_of_fits hc hh.1 hh.2)

end Sys2Proof.Machine
end
